-- ==== Sys2Proof/Word.lean ====
section
/-! DEFINITION. The words of the PTO block (R11, R70, R75): each is what the spec treats as a word of bits. -/

namespace Sys2Proof

/-- Eight bits: a pin, a channel index, a timer identity, an opcode, a status code, an 8-bit timer register (R11). -/
abbrev Byte := BitVec 8

/-- Sixteen bits: the compare register, and the `value` and `mask` of a register write (R33, R54). -/
abbrev Half := BitVec 16

/-- Thirty-two bits: the `freq` and `count` operands (R11) and the response word (R75). -/
abbrev Word := BitVec 32

/-- The toggle counters `pulseTarget` and `pulseRemaining`, 33 bits (R11, R24). -/
abbrev ToggleCount := BitVec 33

/-- The command word, 88 bits (R70). -/
abbrev CommandWord := BitVec 88

end Sys2Proof
end

