-- ==== Sys2Proof/Syntax.lean ====
section
/-! DEFINITION. The eight commands of PTO-CMD version 1 (R73), one constructor per row of the opcode table, each
with the operands its format carries (R71). Operands are unsigned and taken as is (R72): the mode code of GENERATE
and the width code of SOLVE stay the 8-bit codes, because every value of them has a meaning given by the command
itself (R72, R74 d, R121). -/

namespace Sys2Proof

/-- A command (R73). `ch` is a channel slot index, `freq` a frequency in Hz, `count` a number of pulses. -/
inductive Instr where
  /-- `construct(pin)`: bind slot `ch` to `pin` (R90). -/
  | construct  (ch : Byte) (pin : Byte)
  /-- `generate(frequency, mode, pulseCount)` (R121, R122). -/
  | generate   (ch : Byte) (mode : Byte) (freq : Word) (count : Word)
  /-- `updateFrequency(newFrequency)` (R127). -/
  | updatefreq (ch : Byte) (freq : Word)
  /-- `stop()` (R124). -/
  | stop       (ch : Byte)
  /-- `isRunning()` (R128). -/
  | isrunning  (ch : Byte)
  /-- `isValid()` (R91). -/
  | isvalid    (ch : Byte)
  /-- `getError()` (R129). -/
  | geterror   (ch : Byte)
  /-- `computeTiming(frequency)` alone, for the counter width the code names (R108). -/
  | solve      (wcode : Byte) (freq : Word)
deriving DecidableEq, Repr

/-- The mnemonic of a command in the opcode table (R73). -/
def Instr.mnemonic : Instr → String
  | .construct _ _    => "CONSTRUCT"
  | .generate _ _ _ _ => "GENERATE"
  | .updatefreq _ _   => "UPDATEFREQ"
  | .stop _           => "STOP"
  | .isrunning _      => "ISRUNNING"
  | .isvalid _        => "ISVALID"
  | .geterror _       => "GETERROR"
  | .solve _ _        => "SOLVE"

/-- The channel slot a command names; SOLVE names none (R71). -/
def Instr.slot : Instr → Option Byte
  | .construct c _    => some c
  | .generate c _ _ _ => some c
  | .updatefreq c _   => some c
  | .stop c           => some c
  | .isrunning c      => some c
  | .isvalid c        => some c
  | .geterror c       => some c
  | .solve _ _        => none

/-- The pseudo-command `pulses c, freq, n` expands to `generate c, freq, discrete, n` (R78). -/
def Instr.pulses (ch : Byte) (freq : Word) (n : Word) : Instr := .generate ch 0x01 freq n

/-- The pseudo-command `wave c, freq` expands to `generate c, freq, continuous, 0` (R78). -/
def Instr.wave (ch : Byte) (freq : Word) : Instr := .generate ch 0x02 freq 0

end Sys2Proof
end

