-- ==== Sys2Proof/WellFormed.lean ====
section
/-! DEFINITION. The check on a command that needs no state: the width code of SOLVE is 0x08 or 0x10 (R72, R74 d).
The other two value checks of R74 ((c) the slot exists, (e) the slot is not yet constructed) read the machine and
stand with it (Machine/Ops.lean); a field that is too wide cannot be written down. -/

namespace Sys2Proof

/-- The width codes of format S (R72). -/
def widthCodeOk (wcode : Byte) : Bool := wcode == 0x08 || wcode == 0x10

/-- A command whose operands have a meaning whatever the state is (R74 d). -/
def Instr.wellFormed : Instr → Bool
  | .construct _ _    => true
  | .generate _ _ _ _ => true
  | .updatefreq _ _   => true
  | .stop _           => true
  | .isrunning _      => true
  | .isvalid _        => true
  | .geterror _       => true
  | .solve wcode _    => widthCodeOk wcode

end Sys2Proof
end

