-- ==== Sys2Proof/Decode.lean ====
section
/-! DEFINITION. The command word: its fields (R70), the decoder (R71, R73, R74 a and b), the encoder, and the
opcode table as data. The decoder is total and refuses by name; the value checks (c), (d), (e) of R74 "are not in
the mask" (R73) and stand in the commands themselves. -/

namespace Sys2Proof

/-- `op`, bits 87:80 (R70). -/
def opField (w : CommandWord) : Byte := w.extractLsb' 80 8
/-- `ch`, bits 79:72 (R70). -/
def chField (w : CommandWord) : Byte := w.extractLsb' 72 8
/-- `arg`, bits 71:64 (R70). -/
def argField (w : CommandWord) : Byte := w.extractLsb' 64 8
/-- `freq`, bits 63:32 (R70). -/
def freqField (w : CommandWord) : Word := w.extractLsb' 32 32
/-- `count`, bits 31:0 (R70). -/
def countField (w : CommandWord) : Word := w.extractLsb' 0 32

/-- A command word from its five fields, most significant first (R70). -/
def pack (op ch arg : Byte) (freq count : Word) : CommandWord := op ++ ch ++ arg ++ freq ++ count

/-- A field a format may require to be zero (R71). -/
inductive CommandField where
  | ch
  | arg
  | freq
  | count
deriving DecidableEq, Repr

/-- Why a word is no command (R74 a, b). -/
inductive DecodeError where
  /-- `op` is 0x00 or in 0x09 .. 0xFF (R74 a). -/
  | reservedOpcode (op : Byte)
  /-- The first field its format requires to be zero that is not (R74 b). -/
  | mustBeZero (field : CommandField)
deriving DecidableEq, Repr

/-- The first of the listed fields that is not zero. -/
def firstStray : List (CommandField × Bool) → Option CommandField
  | [] => none
  | (f, isZero) :: rest => if isZero then firstStray rest else some f

/-- `i`, unless one of the listed must-be-zero fields is not zero (R74 b). -/
def requireZero (fields : List (CommandField × Bool)) (i : Instr) : Except DecodeError Instr :=
  match firstStray fields with
  | none => .ok i
  | some f => .error (.mustBeZero f)

/-- The decoder: reads `op` and knows the format (R70, R71, R73). -/
def decode (w : CommandWord) : Except DecodeError Instr :=
  let ch := chField w
  let arg := argField w
  let freq := freqField w
  let count := countField w
  if opField w = 0x01 then requireZero [(.freq, freq == 0), (.count, count == 0)] (.construct ch arg)
  else if opField w = 0x02 then .ok (.generate ch arg freq count)
  else if opField w = 0x03 then requireZero [(.arg, arg == 0), (.count, count == 0)] (.updatefreq ch freq)
  else if opField w = 0x04 then
    requireZero [(.arg, arg == 0), (.freq, freq == 0), (.count, count == 0)] (.stop ch)
  else if opField w = 0x05 then
    requireZero [(.arg, arg == 0), (.freq, freq == 0), (.count, count == 0)] (.isrunning ch)
  else if opField w = 0x06 then
    requireZero [(.arg, arg == 0), (.freq, freq == 0), (.count, count == 0)] (.isvalid ch)
  else if opField w = 0x07 then
    requireZero [(.arg, arg == 0), (.freq, freq == 0), (.count, count == 0)] (.geterror ch)
  else if opField w = 0x08 then requireZero [(.ch, ch == 0), (.count, count == 0)] (.solve arg freq)
  else .error (.reservedOpcode (opField w))

/-- The encoder (R71, R73). -/
def encode : Instr → CommandWord
  | .construct ch pin             => pack 0x01 ch pin 0 0
  | .generate ch mode freq count  => pack 0x02 ch mode freq count
  | .updatefreq ch freq           => pack 0x03 ch 0 freq 0
  | .stop ch                      => pack 0x04 ch 0 0 0
  | .isrunning ch                 => pack 0x05 ch 0 0 0
  | .isvalid ch                   => pack 0x06 ch 0 0 0
  | .geterror ch                  => pack 0x07 ch 0 0 0
  | .solve wcode freq             => pack 0x08 0 wcode freq 0

/-- A row of the opcode table: a word `w` has the spelling of the row when `w and mask = match` (R73). -/
structure OpcodeRow where
  mnemonic : String
  pattern  : CommandWord
  mask     : CommandWord
deriving DecidableEq, Repr

/-- `w and mask = match` (R73). -/
def OpcodeRow.spells (r : OpcodeRow) (w : CommandWord) : Bool := w &&& r.mask == r.pattern

/-- The opcode table, row by row as opcode_table.json gives it (R73). -/
def opcodeTable : List OpcodeRow :=
  [⟨"CONSTRUCT",  0x0100000000000000000000, 0xFF0000FFFFFFFFFFFFFFFF⟩,
   ⟨"GENERATE",   0x0200000000000000000000, 0xFF00000000000000000000⟩,
   ⟨"UPDATEFREQ", 0x0300000000000000000000, 0xFF00FF00000000FFFFFFFF⟩,
   ⟨"STOP",       0x0400000000000000000000, 0xFF00FFFFFFFFFFFFFFFFFF⟩,
   ⟨"ISRUNNING",  0x0500000000000000000000, 0xFF00FFFFFFFFFFFFFFFFFF⟩,
   ⟨"ISVALID",    0x0600000000000000000000, 0xFF00FFFFFFFFFFFFFFFFFF⟩,
   ⟨"GETERROR",   0x0700000000000000000000, 0xFF00FFFFFFFFFFFFFFFFFF⟩,
   ⟨"SOLVE",      0x0800000000000000000000, 0xFFFF0000000000FFFFFFFF⟩]

/-- A word of `nbits` bits as the table numbers them, bits above `nbits` zero. The command is ONE word, transferred
whole (R57, R70): the table's bit numbers are the word's. -/
def tableWord (nbits w : Nat) : CommandWord := BitVec.ofNat 88 (w % 2 ^ nbits)

/-- The command the decoder reads from the bits `w`, numbered as the opcode table numbers them. -/
def decodeTableWord (nbits w : Nat) : Option Instr := (decode (tableWord nbits w)).toOption

end Sys2Proof
end

