-- ==== Sys2Proof/Config.lean ====
section
/-! DEFINITION. The configuration of a PTO block (R6 to R10): what the platform fixes and no step changes.
It is plain data; State carries it, so that a statement over all states holds for every configuration. -/

namespace Sys2Proof

/-- `counterWidth` of a timer: 8 or 16 bits, no other width exists (R7). -/
inductive Width where
  | w8
  | w16
deriving DecidableEq, Repr

/-- One divider of `PRESC(w)` with the selector code written to `CRB.CS` to choose it (R8). -/
structure Prescale where
  divider  : Nat
  selector : BitVec 3
deriving DecidableEq, Repr

/-- One row of the pin table: this pin is attached to timer identity `timer`, whose counter has width `width` (R9). -/
structure PinRow where
  pin   : Byte
  timer : Byte
  width : Width
deriving DecidableEq, Repr

/-- The configuration record (R6, R8, R9, R10; the table "Open parameters, collected" of 92_eei_decisions.md).
`pinTable` lists the pins attached to a timer; every other pin is `Invalid`. -/
structure Config where
  /-- `F_CLK`, the timers' input clock in Hz (R6). -/
  fClk     : Nat
  /-- `PRESC(8)` in search order (R8). -/
  presc8   : List Prescale
  /-- `PRESC(16)` in search order (R8). -/
  presc16  : List Prescale
  /-- `PIN_TABLE` (R9). -/
  pinTable : List PinRow
  /-- `N_CH`, the number of channel slots (R10). -/
  nCh      : Nat
  /-- `N_TIMER`, the number of timer identities (R10). -/
  nTimer   : Nat
deriving DecidableEq, Repr

/-- The premises of R8 on one divider list: non-empty, dividers above zero and strictly ascending, selectors in
1..7 (a 3-bit code other than 0) and pairwise distinct. -/
abbrev PrescaleListOk (l : List Prescale) : Prop :=
  l ≠ [] ∧ (∀ p ∈ l, 0 < p.divider ∧ p.selector ≠ 0) ∧
    l.Pairwise (fun a b => a.divider < b.divider ∧ a.selector ≠ b.selector)

/-- The premises of R9 on the pin table: timers exist, and two different rows name different pins and different
timers (the table is a function of the pin and injective in the timer). -/
abbrev PinTableOk (nTimer : Nat) (rows : List PinRow) : Prop :=
  (∀ r ∈ rows, r.timer.toNat < nTimer) ∧
    rows.Pairwise (fun a b => a.pin ≠ b.pin ∧ a.timer ≠ b.timer)

/-- All premises of R6, R8, R9, R10. -/
abbrev Config.Ok (c : Config) : Prop :=
  0 < c.fClk ∧ PrescaleListOk c.presc8 ∧ PrescaleListOk c.presc16 ∧ PinTableOk c.nTimer c.pinTable ∧
    (1 ≤ c.nCh ∧ c.nCh ≤ 256) ∧ (1 ≤ c.nTimer ∧ c.nTimer ≤ 255)

/-- The default `PRESC(8)` of R8 (PRESUMED: general knowledge by the spec's own word, G1; log entry 2). -/
def Config.defaultPresc8 : List Prescale :=
  [⟨1, 1⟩, ⟨8, 2⟩, ⟨32, 3⟩, ⟨64, 4⟩, ⟨128, 5⟩, ⟨256, 6⟩, ⟨1024, 7⟩]

/-- The default `PRESC(16)` of R8 (PRESUMED: general knowledge by the spec's own word, G1; log entry 2). -/
def Config.defaultPresc16 : List Prescale :=
  [⟨1, 1⟩, ⟨8, 2⟩, ⟨64, 3⟩, ⟨256, 4⟩, ⟨1024, 5⟩]

/-- The configuration State.reset starts with: the defaults of R6 and R8 on the example board of
95_test_vectors.md section 1 (DESIGN CHOICE: R9 and R10 give no pin table and no counts; log entry 2). -/
def Config.exampleBoard : Config where
  fClk     := 16000000
  presc8   := Config.defaultPresc8
  presc16  := Config.defaultPresc16
  pinTable := [⟨9, 0, .w16⟩, ⟨10, 1, .w16⟩, ⟨11, 2, .w8⟩]
  nCh      := 4
  nTimer   := 3

end Sys2Proof
end

