-- ==== Sys2Proof/Machine/State.lean ====
section
/-! DEFINITION. The state of PTO and its timers (R20, R27, R28, R36; R38 is the whole table), the configuration it
runs under, and the model's own two fields: the stimuli still to come and the outputs given so far (R194). -/

namespace Sys2Proof.Machine

/-- `runState` (R23). -/
inductive RunState where
  | idle
  | running
deriving DecidableEq, Repr

/-- `mode` (R23). -/
inductive Mode where
  | stopped
  | discrete
  | continuous
deriving DecidableEq, Repr

/-- The error classifications (R150); their 8-bit codes are `ErrorKind.code` (Flags.lean). -/
inductive ErrorKind where
  | none
  | invalidPin
  | alreadyActive
  | zeroFrequency
  | zeroPulses
  | invalidMode
  | frequencyOutOfRange
  | notRunning
deriving DecidableEq, Repr

/-- One slot of the channel file: exactly the nine fields of R20. `timerIdentity = none` is the spec's `Invalid`. -/
structure Channel where
  constructed    : Bool
  pin            : Byte
  timerIdentity  : Option Byte
  counterWidth   : Width
  runState       : RunState
  mode           : Mode
  pulseTarget    : ToggleCount
  pulseRemaining : ToggleCount
  lastError      : ErrorKind
deriving DecidableEq, Repr

/-- A slot after reset (R38). -/
def Channel.initial : Channel where
  constructed    := false
  pin            := 0
  timerIdentity  := none
  counterWidth   := .w16
  runState       := .idle
  mode           := .stopped
  pulseTarget    := 0
  pulseRemaining := 0
  lastError      := .none

/-- The names of the six timer registers of one identity (R28). -/
inductive TReg where
  | cra
  | crb
  | imr
  | ocr
  | port
  | ddr
deriving DecidableEq, Repr

/-- The timer-side state of one identity: the six registers (R28) and the level `OUT` of the output unit (R36). -/
structure TimerRegs where
  cra  : Byte
  crb  : Byte
  imr  : Byte
  ocr  : Half
  port : Byte
  ddr  : Byte
  out  : Bool
deriving DecidableEq, Repr

/-- All bits 0 (R38). -/
def TimerRegs.zero : TimerRegs where
  cra  := 0
  crb  := 0
  imr  := 0
  ocr  := 0
  port := 0
  ddr  := 0
  out  := false

/-- What can cause a step (R194). -/
inductive Stimulus where
  /-- The host presents a command word (R79). -/
  | command (w : CommandWord)
  /-- The timer of identity `t` offers a compare-match event (R155, R166). -/
  | compareMatch (t : Byte)
  /-- `rst` is asserted and released; `platform` is what the timers' registers then hold (R180, R181). -/
  | rst (platform : List TimerRegs)
deriving DecidableEq, Repr

/-- What a step leaves for an observer, in rule order (R59, R194). -/
inductive Output where
  /-- One `TRegWrite(t, reg, value, mask)` (R54). -/
  | tregWrite (t : Byte) (reg : TReg) (value mask : Half)
  /-- One response word (R75). -/
  | response (w : Word)
deriving DecidableEq, Repr

/-- The state. `cfg` is the configuration (constant, log entry 1); `schedule` and `trace` are the model's own
(log entries 4 and 8): the stimuli still to come, first one first, and the outputs so far, oldest first. -/
structure State where
  cfg      : Config
  channels : List Channel
  registry : List (Option Byte)
  timers   : List TimerRegs
  schedule : List Stimulus
  trace    : List Output
deriving DecidableEq, Repr

/-- No step of PTO faults: "There is no crash/abort path in this core" (R131, R151). -/
inductive Fault : Type
deriving DecidableEq, Repr

/-- Why a command has no meaning in this model. -/
inductive Refusal where
  /-- Raised by `exec`'s arm of a command not modelled yet; no arm raises it now. Safe: the run stops. -/
  | notModelled (mnemonic : String)
deriving DecidableEq, Repr

/-- The state right after `rst` is released under configuration `cfg`, with the timers' registers as the platform
leaves them (R38, R180, R181). A platform list of another length than `N_TIMER` is cut, or filled with zeros. -/
def State.launch (cfg : Config) (platform : List TimerRegs) : State where
  cfg      := cfg
  channels := List.replicate cfg.nCh Channel.initial
  registry := List.replicate cfg.nTimer none
  timers   := (List.range cfg.nTimer).map (fun t => platform.getD t TimerRegs.zero)
  schedule := []
  trace    := []

/-- The machine right after reset: the example board, the launch premise of R181 met (log entries 2 and 3). -/
def State.reset : State := State.launch Config.exampleBoard []

end Sys2Proof.Machine
end

