-- ==== Sys2Proof/Machine/Operands.lean ====
section
/-! DEFINITION. Operand forms: the codes a command carries (R72), the pin table lookup (R9), the widths (R7), the
masked merge of a register write and the fields of the timer registers (R30 to R35, R52, R54). -/

namespace Sys2Proof.Machine

/-- The mode a GENERATE asks for: 0x01 Discrete, 0x02 Continuous, every other code unrecognised (R72). -/
def requestedMode (m : Byte) : Option Mode :=
  if m = 0x01 then some .discrete else if m = 0x02 then some .continuous else none

/-- The counter width a SOLVE asks for: 0x08 or 0x10, every other code illegal (R72, R74 d). -/
def requestedWidth (wcode : Byte) : Option Width :=
  if wcode = 0x08 then some .w8 else if wcode = 0x10 then some .w16 else none

/-- A request of `n` visible pulses in toggles, exact in 33 bits (R72, R110). -/
def togglesOf (n : Word) : ToggleCount := BitVec.ofNat 33 (2 * n.toNat)

/-- `counterWidth` in bits (R7). -/
def widthBits : Width → Nat
  | .w8 => 8
  | .w16 => 16

/-- `maxCompareValue = 2^counterWidth - 1` (R7). -/
def maxCompareValue (w : Width) : Nat := 2 ^ widthBits w - 1

/-- `PRESC(w)` (R8). -/
def prescalers (cfg : Config) : Width → List Prescale
  | .w8 => cfg.presc8
  | .w16 => cfg.presc16

/-- The first row for a pin (rows name different pins, R9). -/
def findPin (pin : Byte) : List PinRow → Option (Byte × Width)
  | [] => none
  | r :: rest => if r.pin = pin then some (r.timer, r.width) else findPin pin rest

/-- `PIN_TABLE(p)`: `none` is `Invalid` (R9). -/
def lookupPin (cfg : Config) (pin : Byte) : Option (Byte × Width) := findPin pin cfg.pinTable

/-- The masked write of R54: bits under the mask take the value's, the others keep their own. -/
def mergeBits {n : Nat} (old value mask : BitVec n) : BitVec n := (old &&& ~~~mask) ||| (value &&& mask)

/-- The low byte of a 16-bit `value` or `mask`, for a register of 8 bits (R54). -/
def lowByte (h : Half) : Byte := h.extractLsb' 0 8

/-- The register index of R52. -/
def TReg.index : TReg → BitVec 3
  | .cra => 0
  | .crb => 1
  | .imr => 2
  | .ocr => 3
  | .port => 4
  | .ddr => 5

/-- `PA`, the pin action, bits 7:6 of a `CRA` value (R30). -/
def pinAction (cra : Byte) : BitVec 2 := cra.extractLsb' 6 2

/-- `PA = Disconnected` (R30). -/
def paDisconnected : BitVec 2 := 0b00
/-- `PA = ToggleOnMatch` (R30). -/
def paToggleOnMatch : BitVec 2 := 0b01

/-- `CRA.PA` (R30). -/
def TimerRegs.pa (r : TimerRegs) : BitVec 2 := pinAction r.cra
/-- `CRA.WM` (R30). -/
def TimerRegs.wm (r : TimerRegs) : BitVec 1 := r.cra.extractLsb' 0 1
/-- `CRB.CS`, 0 halts the counter (R31). -/
def TimerRegs.cs (r : TimerRegs) : BitVec 3 := r.crb.extractLsb' 0 3
/-- `IMR.CMIE` (R32). -/
def TimerRegs.cmie (r : TimerRegs) : BitVec 1 := r.imr.extractLsb' 0 1
/-- The output latch `PORT[0]` of the pin (R34). -/
def TimerRegs.latch (r : TimerRegs) : BitVec 1 := r.port.extractLsb' 0 1
/-- The direction `DDR[0]` of the pin, 1 = output (R35). -/
def TimerRegs.direction (r : TimerRegs) : BitVec 1 := r.ddr.extractLsb' 0 1

/-- One register write on the registers of an identity (R54), with the side effect of R56 and R168: a write of `CRA`
that leaves `PA` Disconnected forces `OUT` to 0. -/
def TimerRegs.write (r : TimerRegs) (reg : TReg) (value mask : Half) : TimerRegs :=
  match reg with
  | .cra =>
    let cra := mergeBits r.cra (lowByte value) (lowByte mask)
    { r with cra := cra, out := if pinAction cra = paDisconnected then false else r.out }
  | .crb  => { r with crb := mergeBits r.crb (lowByte value) (lowByte mask) }
  | .imr  => { r with imr := mergeBits r.imr (lowByte value) (lowByte mask) }
  | .ocr  => { r with ocr := mergeBits r.ocr value mask }
  | .port => { r with port := mergeBits r.port (lowByte value) (lowByte mask) }
  | .ddr  => { r with ddr := mergeBits r.ddr (lowByte value) (lowByte mask) }

/-- The value of one register, 8-bit registers with zeros above (R52, R54). -/
def TimerRegs.get (r : TimerRegs) : TReg → Half
  | .cra  => r.cra.setWidth 16
  | .crb  => r.crb.setWidth 16
  | .imr  => r.imr.setWidth 16
  | .ocr  => r.ocr
  | .port => r.port.setWidth 16
  | .ddr  => r.ddr.setWidth 16

/-- The width of a register in bits (R52, R53). -/
def TReg.bits : TReg → Nat
  | .ocr => 16
  | .cra | .crb | .imr | .port | .ddr => 8

/-- Step 1 of a compare match: the pin toggles while `PA = ToggleOnMatch` (R167). -/
def TimerRegs.toggle (r : TimerRegs) : TimerRegs :=
  if r.pa = paToggleOnMatch then { r with out := !r.out } else r

/-- The level of the pin, `true` = HIGH (R168). `none`: the spec defines no level (undriven, U6; a reserved `PA`
code, U3; log entry 12). -/
def TimerRegs.pinLevel (r : TimerRegs) : Option Bool :=
  if r.direction = 0 then none
  else if r.pa = paToggleOnMatch then some r.out
  else if r.pa = paDisconnected then some (r.latch == 1)
  else none

end Sys2Proof.Machine
end

