-- ==== Sys2Proof/Machine/Timing.lean ====
section
/-! DEFINITION. The timing engine (R100 to R110): the prescaler and compare search, a pure function of the
configuration, a frequency and a counter width. The command SOLVE stands in Machine/Query.lean. -/

namespace Sys2Proof.Machine

/-- `Ok(compareValue, prescalerSelector)` (R100); `none : Option Timing` is `FrequencyOutOfRange`. -/
structure Timing where
  compareValue : Nat
  selector     : BitVec 3
deriving DecidableEq, Repr

/-- `q(P) = F_CLK div (2 * P * f)`, exact natural arithmetic (R100, R107). -/
def quotient (fClk divider f : Nat) : Nat := fClk / (2 * divider * f)

/-- The test of the search: `1 ≤ q ≤ 2^w` (R100). -/
def fitsCounter (w : Width) (q : Nat) : Bool := 1 ≤ q && q ≤ 2 ^ widthBits w

/-- The search over a divider list, first to last (R100). -/
def searchPrescalers (fClk f : Nat) (w : Width) : List Prescale → Option Timing
  | [] => none
  | p :: rest =>
    if fitsCounter w (quotient fClk p.divider f) then some ⟨quotient fClk p.divider f - 1, p.selector⟩
    else searchPrescalers fClk f w rest

/-- `computeTiming(f, w)` (R100). Every caller has rejected `f = 0` (R101). -/
def computeTiming (cfg : Config) (f : Nat) (w : Width) : Option Timing :=
  searchPrescalers cfg.fClk f w (prescalers cfg w)

/-- The search that gives up at the first divider whose quotient is 0 (R109). -/
def searchPrescalersEarlyExit (fClk f : Nat) (w : Width) : List Prescale → Option Timing
  | [] => none
  | p :: rest =>
    if quotient fClk p.divider f = 0 then none
    else if fitsCounter w (quotient fClk p.divider f) then some ⟨quotient fClk p.divider f - 1, p.selector⟩
    else searchPrescalersEarlyExit fClk f w rest

/-- Input-clock cycles between consecutive compare matches in the steady state (R166, R190). Timing: no step reads it. -/
def eventSpacing (divider compareValue : Nat) : Nat := divider * (compareValue + 1)

/-- Input-clock cycles of one output period in the steady state (R190). Timing: no step reads it. -/
def outputPeriod (divider compareValue : Nat) : Nat := 2 * eventSpacing divider compareValue

end Sys2Proof.Machine
end

