-- ==== Sys2Proof/Machine/Flags.lean ====
section
/-! DEFINITION. The one status flag of a channel, `lastError` (R25): the codes of the classifications (R150), and
which classification a GENERATE or an UPDATEFREQ records (R121, R127, R153). -/

namespace Sys2Proof.Machine

/-- The 8-bit codes of R150. -/
def ErrorKind.code : ErrorKind → Byte
  | .none                => 0
  | .invalidPin          => 1
  | .alreadyActive       => 2
  | .zeroFrequency       => 3
  | .zeroPulses          => 4
  | .invalidMode         => 5
  | .frequencyOutOfRange => 6
  | .notRunning          => 7

/-- What a GENERATE on channel record `r` comes to: the first failing check of R121 in its order, or the timer
identity, the mode and the timing to program. -/
def generateVerdict (cfg : Config) (r : Channel) (mode : Byte) (freq count : Word) :
    Except ErrorKind (Byte × Mode × Timing) :=
  match r.timerIdentity with
  | none => .error .invalidPin
  | some t =>
    if r.runState = .running then .error .alreadyActive
    else if freq = 0 then .error .zeroFrequency
    else match requestedMode mode with
      | none => .error .invalidMode
      | some m =>
        if m = .discrete ∧ count = 0 then .error .zeroPulses
        else match computeTiming cfg freq.toNat r.counterWidth with
          | none => .error .frequencyOutOfRange
          | some tm => .ok (t, m, tm)

/-- What an UPDATEFREQ on channel record `r` comes to: the first failing check of R127 in its order, or the timer
identity and the timing to program. -/
def updateVerdict (cfg : Config) (r : Channel) (freq : Word) : Except ErrorKind (Byte × Timing) :=
  match r.timerIdentity with
  | none => .error .invalidPin
  | some t =>
    if r.runState ≠ .running then .error .notRunning
    else if freq = 0 then .error .zeroFrequency
    else match computeTiming cfg freq.toNat r.counterWidth with
      | none => .error .frequencyOutOfRange
      | some tm => .ok (t, tm)

/-- What a SOLVE for width `w` comes to: the first failing check of R108, or the timing. -/
def solveVerdict (cfg : Config) (w : Width) (freq : Word) : Except ErrorKind Timing :=
  if freq = 0 then .error .zeroFrequency
  else match computeTiming cfg freq.toNat w with
    | none => .error .frequencyOutOfRange
    | some tm => .ok tm

end Sys2Proof.Machine
end

