-- ==== Sys2Proof/Machine/Ops.lean ====
section
/-! DEFINITION. The named operations over the state (R13): the channel file, the registry, the timer registers, the
response, the synchronous error `fail` (R151), the illegal command (R74), `do_stop` (R126), the compare-match event
with its dispatch and handler (R158, R159, R167; there is no return from it, R162), and reset (R180). -/

namespace Sys2Proof.Machine

/-- `ch[c]` (R13, R20). -/
def State.ch (s : State) (c : Byte) : Channel := s.channels.getD c.toNat Channel.initial

/-- Writes fields of `ch[c]` (R13). -/
def State.updCh (s : State) (c : Byte) (f : Channel → Channel) : State :=
  { s with channels := s.channels.modify c.toNat f }

/-- `registry[t]` (R27). -/
def State.owner (s : State) (t : Byte) : Option Byte := s.registry.getD t.toNat none

/-- `registry[t] <- c` (R27). -/
def State.setOwner (s : State) (t c : Byte) : State :=
  { s with registry := s.registry.set t.toNat (some c) }

/-- `T[t]` (R28). -/
def State.timer (s : State) (t : Byte) : TimerRegs := s.timers.getD t.toNat TimerRegs.zero

/-- `TRegWrite(t, reg, value, mask)`, one indivisible write, recorded in rule order (R54, R59). -/
def State.tregWrite (s : State) (t : Byte) (reg : TReg) (value mask : Half) : State :=
  { s with
    timers := s.timers.modify t.toNat (fun r => r.write reg value mask)
    trace := s.trace ++ [.tregWrite t reg value mask] }

/-- The response word: `STATUS` 31:24, `VAL8` 23:16, `VAL16` 15:0 (R75). -/
def responseWord (status val8 : Byte) (val16 : Half) : Word := status ++ val8 ++ val16

/-- `respond(status, val8, val16)` (R75). -/
def State.respond (s : State) (status val8 : Byte) (val16 : Half) : State :=
  { s with trace := s.trace ++ [.response (responseWord status val8 val16)] }

/-- The response of an illegal command, which changes nothing else (R74). -/
def State.illegal (s : State) : State := s.respond 0xFF 0 0

/-- `c < N_CH` (R74 c). -/
def State.hasSlot (s : State) (c : Byte) : Bool := c.toNat < s.cfg.nCh

/-- The synchronous error `fail(c, e)` (R13, R151): records the classification and responds with it. -/
def State.fail (s : State) (c : Byte) (e : ErrorKind) : State :=
  (s.updCh c (fun r => { r with lastError := e })).respond e.code 0 0

/-- Steps 1 to 4 of `do_stop` on the registers of identity `t` (R126). -/
def State.haltTimer (s : State) (t : Byte) : State :=
  (((s.tregWrite t .cra 0x00 0xC0).tregWrite t .port 0x00 0x01).tregWrite t .crb 0x00 0x07).tregWrite t .imr 0x00 0x01

/-- `do_stop(c)`, shared by STOP and by the interrupt handler (R126). -/
def State.doStop (s : State) (c : Byte) : State :=
  let halted := match (s.ch c).timerIdentity with
    | none => s
    | some t => s.haltTimer t
  halted.updCh c (fun r => { r with runState := .idle, mode := .stopped })

/-- The handler (R159). -/
def State.handleInterrupt (s : State) (c : Byte) : State :=
  if (s.ch c).runState = .running ∧ (s.ch c).mode = .discrete ∧ 1 ≤ (s.ch c).pulseRemaining then
    let counted := s.updCh c (fun r => { r with pulseRemaining := r.pulseRemaining - 1 })
    if (counted.ch c).pulseRemaining = 0 then counted.doStop c else counted
  else s

/-- Routing of an event to the owning channel, a no-op without one (R158). -/
def State.dispatch (s : State) (t : Byte) : State :=
  match s.owner t with
  | none => s
  | some c => s.handleInterrupt c

/-- `compareMatch(t)` (R167). While the counter is halted there is no such event (R166): an offered one is dropped
(U13, log entry 6). -/
def State.compareMatch (s : State) (t : Byte) : State :=
  if (s.timer t).cs = 0 then s
  else
    let toggled := { s with timers := s.timers.modify t.toNat TimerRegs.toggle }
    if (toggled.timer t).cmie = 1 then toggled.dispatch t else toggled

/-- `rst` asserted and released, the timers' registers then being what the platform makes them (R180, R181). The
configuration, the stimuli still to come and the observer's record are no state of PTO and stay. -/
def State.restart (s : State) (platform : List TimerRegs) : State :=
  { State.launch s.cfg platform with schedule := s.schedule, trace := s.trace }

end Sys2Proof.Machine
end

