-- ==== Sys2Proof/Machine/Binding.lean ====
section
/-! DEFINITION. Channel binding: CONSTRUCT (R90, R92, R93) and ISVALID (R91). -/

namespace Sys2Proof.Machine

/-- Marks slot `c` constructed on pin `p` without a timer (R90, the `Invalid` case). -/
def State.bindInvalid (s : State) (c p : Byte) : State :=
  s.updCh c (fun r => { r with constructed := true, pin := p, timerIdentity := none })

/-- Marks slot `c` constructed on pin `p`, bound to timer `t` of width `w`, and registers it as the owner, evicting
any previous one; the pin becomes an output (R90, R93). -/
def State.bindTimer (s : State) (c p t : Byte) (w : Width) : State :=
  (((s.updCh c (fun r =>
        { r with constructed := true, pin := p, timerIdentity := some t, counterWidth := w })).setOwner t c).tregWrite
      t .ddr 0x01 0x01).updCh c (fun r => { r with lastError := .none })

/-- CONSTRUCT (R90). -/
def execConstruct (c p : Byte) (s : State) : Host.Outcome State Fault Refusal :=
  if !s.hasSlot c || (s.ch c).constructed then .next s.illegal
  else match lookupPin s.cfg p with
    | none => .next ((s.bindInvalid c p).fail c .invalidPin)
    | some (t, w) => .next ((s.bindTimer c p t w).respond 0 1 0)

/-- ISVALID (R91). -/
def execIsvalid (c : Byte) (s : State) : Host.Outcome State Fault Refusal :=
  if !s.hasSlot c then .next s.illegal
  else .next (s.respond 0 (if (s.ch c).timerIdentity ≠ none then 1 else 0) 0)

end Sys2Proof.Machine
end

