-- ==== Sys2Proof/Machine/Query.lean ====
section
/-! DEFINITION. The queries ISRUNNING (R128) and GETERROR (R129), and SOLVE (R108), which name no effect on the
state but their response. -/

namespace Sys2Proof.Machine

/-- ISRUNNING: answered from `runState`, never from a timer register (R128). -/
def execIsrunning (c : Byte) (s : State) : Host.Outcome State Fault Refusal :=
  if !s.hasSlot c then .next s.illegal
  else .next (s.respond 0 (if (s.ch c).runState = .running then 1 else 0) 0)

/-- GETERROR: reading does not clear the flag (R129). -/
def execGeterror (c : Byte) (s : State) : Host.Outcome State Fault Refusal :=
  if !s.hasSlot c then .next s.illegal
  else .next (s.respond 0 (s.ch c).lastError.code 0)

/-- SOLVE (R108). -/
def execSolve (wcode : Byte) (freq : Word) (s : State) : Host.Outcome State Fault Refusal :=
  match requestedWidth wcode with
  | none => .next s.illegal
  | some w => match solveVerdict s.cfg w freq with
    | .error e => .next (s.respond e.code 0 0)
    | .ok tm => .next (s.respond 0 (tm.selector.setWidth 8) (BitVec.ofNat 16 tm.compareValue))

end Sys2Proof.Machine
end

