-- ==== Sys2Proof/Machine/Run.lean ====
section
/-! DEFINITION. The foreground half of the state machine (R120): GENERATE (R121 to R123), UPDATEFREQ (R127) and
STOP (R124, R125). -/

namespace Sys2Proof.Machine

/-- Steps 1 to 4 of R122: both control registers cleared, the compare value, toggle-on-match. -/
def State.programTimer (s : State) (t : Byte) (compareValue : Half) : State :=
  (((s.tregWrite t .cra 0x00 0xFF).tregWrite t .crb 0x00 0xFF).tregWrite t .ocr compareValue 0xFFFF).tregWrite
    t .cra 0x41 0xC1

/-- Step 5 of R122: in Discrete mode the two counters and the interrupt enable; nothing in Continuous mode. -/
def State.armCount (s : State) (c t : Byte) (m : Mode) (n : Word) : State :=
  match m with
  | .discrete =>
    (s.updCh c (fun r => { r with pulseTarget := togglesOf n, pulseRemaining := togglesOf n })).tregWrite
      t .imr 0x01 0x01
  | .continuous => s
  | .stopped => s

/-- Writes the selector to `CRB.CS`, the write that starts the counter or changes its clock (R122 step 6, R127
step 6). -/
def State.selectClock (s : State) (t : Byte) (selector : BitVec 3) : State :=
  s.tregWrite t .crb (selector.setWidth 16) 0x07

/-- Steps 1 to 7 of R122. -/
def State.startRun (s : State) (c t : Byte) (m : Mode) (tm : Timing) (n : Word) : State :=
  (((s.programTimer t (BitVec.ofNat 16 tm.compareValue)).armCount c t m n).selectClock t tm.selector).updCh c
    (fun r => { r with runState := .running, mode := m, lastError := .none })

/-- Steps 5 to 7 of R127. -/
def State.retime (s : State) (c t : Byte) (tm : Timing) : State :=
  ((s.tregWrite t .ocr (BitVec.ofNat 16 tm.compareValue) 0xFFFF).selectClock t tm.selector).updCh c
    (fun r => { r with lastError := .none })

/-- GENERATE (R121, R122, R123). -/
def execGenerate (c mode : Byte) (freq count : Word) (s : State) : Host.Outcome State Fault Refusal :=
  if !s.hasSlot c then .next s.illegal
  else match generateVerdict s.cfg (s.ch c) mode freq count with
    | .error e => .next (s.fail c e)
    | .ok (t, m, tm) => .next ((s.startRun c t m tm count).respond 0 1 0)

/-- UPDATEFREQ (R127). -/
def execUpdatefreq (c : Byte) (freq : Word) (s : State) : Host.Outcome State Fault Refusal :=
  if !s.hasSlot c then .next s.illegal
  else match updateVerdict s.cfg (s.ch c) freq with
    | .error e => .next (s.fail c e)
    | .ok (t, tm) => .next ((s.retime c t tm).respond 0 1 0)

/-- STOP (R124). -/
def execStop (c : Byte) (s : State) : Host.Outcome State Fault Refusal :=
  if !s.hasSlot c then .next s.illegal
  else .next ((s.doStop c).respond 0 0 0)

end Sys2Proof.Machine
end

