-- ==== Sys2Proof/Machine/Dispatch.lean ====
section
/-! DEFINITION. The dispatch of a command to its meaning, one arm per constructor. -/

namespace Sys2Proof.Machine

def exec (i : Instr) (s : State) : Host.Outcome State Fault Refusal :=
  match i with
  | .construct c p => Sys2Proof.Machine.execConstruct c p s
  | .generate c m f n => Sys2Proof.Machine.execGenerate c m f n s
  | .updatefreq c f => Sys2Proof.Machine.execUpdatefreq c f s
  | .stop c => Sys2Proof.Machine.execStop c s
  | .isrunning c => Sys2Proof.Machine.execIsrunning c s
  | .isvalid c => Sys2Proof.Machine.execIsvalid c s
  | .geterror c => Sys2Proof.Machine.execGeterror c s
  | .solve w f => Sys2Proof.Machine.execSolve w f s

end Sys2Proof.Machine
end

