-- ==== Sys2Proof/Machine/Serve.lean ====
section
/-! DEFINITION. How one stimulus is served: a command, a compare-match event or a reset, each one atomic transition
(R58, R194). -/

namespace Sys2Proof.Machine

/-- The transition `command(w)` (R79, R194): a word that spells no command is answered and changes nothing (R74). -/
def runCommand (w : CommandWord) (s : State) : Host.Outcome State Fault Refusal :=
  match decode w with
  | .error _ => .next s.illegal
  | .ok i => exec i s

/-- The transition a stimulus causes (R194). -/
def serve (x : Stimulus) (s : State) : Host.Outcome State Fault Refusal :=
  match x with
  | .command w => runCommand w s
  | .compareMatch t => .next (s.compareMatch t)
  | .rst platform => .next (s.restart platform)

end Sys2Proof.Machine
end

