-- ==== Sys2Proof/Machine/Step.lean ====
section
/-! DEFINITION. One step of the system of PTO and its timers (R194): the first stimulus of the schedule is taken and
served whole (R58). -/

namespace Sys2Proof.Machine

/-- One step. With no stimulus left PTO waits: it never moves on its own (R180, R194). -/
def step (s : State) : Host.Outcome State Fault Refusal :=
  match s.schedule with
  | [] => .next s
  | x :: rest => serve x { s with schedule := rest }

/-- The host presents the command word whose bits are `w` as the next stimulus (R79). -/
def State.withFetchWord (s : State) (nbits w : Nat) : State :=
  { s with schedule := .command (tableWord nbits w) :: s.schedule }

end Sys2Proof.Machine
end

