-- ==== Sys2Proof/Machine/Runs.lean ====
section
/-! DEFINITION. Whole runs (R194) and which of them the timers can produce (R166): what comes at each instant is an
endless stream, the state after each instant follows by `step`, and an admissible stream offers no event of a halted
timer and is weakly fair to every running one. No step reads a stream; the finite `schedule` of a state is the
beginning of one (log entry 4). -/

namespace Sys2Proof.Machine

/-- What comes at each instant: a command word, an event, a reset, or nothing (R194). -/
abbrev Inputs := Nat → Option Stimulus

/-- The state before instant `k` of the run from `s` under `input`, `step` taken at every instant (R194). `step` always
answers a next state, so the last two arms are never taken. -/
def trajectory (s : State) (input : Inputs) : Nat → State
  | 0 => { s with schedule := [] }
  | k + 1 =>
    match step { trajectory s input k with schedule := (input k).toList } with
    | .next s' => s'
    | .fault _ => trajectory s input k
    | .refused _ => trajectory s input k

/-- An event comes only from a timer whose counter runs at that instant: "While CS = 0 it produces none" (R166). -/
def EventsOnlyWhileRunning (s : State) (input : Inputs) : Prop :=
  ∀ k t, input k = some (.compareMatch t) → ((trajectory s input k).timer t).cs ≠ 0

/-- Weak fairness (R166): a timer that runs at every instant from `k` on has an event at `k` or later. No number of
instants bounds how soon. -/
def WeaklyFair (s : State) (input : Inputs) : Prop :=
  ∀ t k, (∀ j, k ≤ j → ((trajectory s input j).timer t).cs ≠ 0) → ∃ j, k ≤ j ∧ input j = some (.compareMatch t)

/-- What the timers can produce (R166). The host's words, their times and the order of everything are free (R163). -/
structure Admissible (s : State) (input : Inputs) : Prop where
  enabled : EventsOnlyWhileRunning s input
  fair    : WeaklyFair s input

/-- The events of timer `t` at the instants before `k`. -/
def eventsBefore (input : Inputs) (t : Byte) : Nat → Nat
  | 0 => 0
  | k + 1 => eventsBefore input t k + if input k = some (.compareMatch t) then 1 else 0

/-- No reset comes, and no command changes the registers of timer `t`, its owner, or the owner's slot: the host
"causes no step that writes `ch[c]`, `registry[t]` or `T[t].*`" (R195 b). Polling the owner is allowed. -/
def HostLeaves (s : State) (input : Inputs) (t : Byte) : Prop :=
  (∀ k platform, input k ≠ some (.rst platform)) ∧
  ∀ k w, input k = some (.command w) →
    (trajectory s input (k + 1)).timer t = (trajectory s input k).timer t ∧
    (trajectory s input (k + 1)).owner t = (trajectory s input k).owner t ∧
    ∀ c, (trajectory s input k).owner t = some c → (trajectory s input (k + 1)).ch c = (trajectory s input k).ch c

end Sys2Proof.Machine
end

