-- ==== Sys2Proof/Safety.lean ====
section
/-! DEFINITION. The terms claims are made in: the invariants of R39 with what makes them inductive, the launch
premise of R181, illegal words (R74), quiescence and runs (R195). -/

namespace Sys2Proof.Machine

/-- The launch premise of R181: every timer register is 0 when `rst` is released. -/
def LaunchPremise (platform : List TimerRegs) : Prop := ∀ r ∈ platform, r = TimerRegs.zero

/-- `ch[c]` is valid exactly when it has a timer identity (R22). -/
def State.valid (s : State) (c : Byte) : Prop := (s.ch c).timerIdentity ≠ none

/-- No two channels have the same timer identity: the proviso of R39. -/
def State.Unshared (s : State) : Prop :=
  ∀ c₁ c₂ t, (s.ch c₁).timerIdentity = some t → (s.ch c₂).timerIdentity = some t → c₁ = c₂

/-- A channel registered for `t` has identity `t` (R163). -/
def State.RegistryConsistent (s : State) : Prop :=
  ∀ t c, s.owner t = some c → (s.ch c).timerIdentity = some t

/-- Disconnected, halted, masked, latch LOW, output unit LOW: the state of the timer in I2 (R39). -/
def TimerRegs.Quiet (r : TimerRegs) : Prop :=
  r.pa = paDisconnected ∧ r.cs = 0 ∧ r.cmie = 0 ∧ r.latch = 0 ∧ r.out = false

/-- The state of the timer of a running channel in I4 (R39). -/
def TimerRegs.Programmed (r : TimerRegs) (cfg : Config) (w : Width) (m : Mode) : Prop :=
  r.pa = paToggleOnMatch ∧ r.wm = 1 ∧ (∃ p ∈ prescalers cfg w, p.selector = r.cs) ∧
    r.ocr.toNat ≤ maxCompareValue w ∧ (r.cmie = 1 ↔ m = .discrete)

/-- The sizes of R20, R27, R28. -/
def State.Sized (s : State) : Prop :=
  s.channels.length = s.cfg.nCh ∧ s.registry.length = s.cfg.nTimer ∧ s.timers.length = s.cfg.nTimer

/-- The invariants of R39 (I1 to I6) with the conjuncts that make them inductive. The proviso of R39 stands in I2 and
I4; the other conjuncts hold under eviction too. -/
structure State.Inv (s : State) : Prop where
  cfgOk : s.cfg.Ok
  sized : s.Sized
  /-- I1. -/
  idleIffStopped : ∀ c, (s.ch c).runState = .idle ↔ (s.ch c).mode = .stopped
  /-- I2, without its direction clause. -/
  idleQuiet : s.Unshared → ∀ c t, (s.ch c).timerIdentity = some t → (s.ch c).runState = .idle → (s.timer t).Quiet
  /-- I2, the direction clause. -/
  boundIsOutput : ∀ c t, (s.ch c).timerIdentity = some t → (s.timer t).direction = 1
  /-- I3. -/
  invalidIdle : ∀ c, (s.ch c).timerIdentity = none → (s.ch c).runState = .idle
  /-- I4. -/
  runningProgrammed : s.Unshared → ∀ c t, (s.ch c).timerIdentity = some t → (s.ch c).runState = .running →
    (s.timer t).Programmed s.cfg (s.ch c).counterWidth (s.ch c).mode
  /-- I5. -/
  discreteCount : ∀ c, (s.ch c).mode = .discrete →
    1 ≤ (s.ch c).pulseRemaining.toNat ∧ (s.ch c).pulseRemaining.toNat ≤ (s.ch c).pulseTarget.toNat ∧
      (s.ch c).pulseTarget.toNat % 2 = 0 ∧ 2 ≤ (s.ch c).pulseTarget.toNat
  /-- I6. -/
  validConstructed : ∀ c, (s.ch c).timerIdentity ≠ none → (s.ch c).constructed = true
  /-- Auxiliary: a binding is what the pin table gives (R90, R92). -/
  boundByTable : ∀ c t, (s.ch c).timerIdentity = some t →
    lookupPin s.cfg (s.ch c).pin = some (t, (s.ch c).counterWidth)
  /-- Auxiliary: the registry (R163). -/
  registryConsistent : s.RegistryConsistent
  /-- Auxiliary: a timer some channel is bound to has an owner (R27, "never removed"). -/
  boundIsOwned : ∀ c t, (s.ch c).timerIdentity = some t → s.owner t ≠ none
  /-- Auxiliary: a timer nobody is bound to is as the launch premise left it (R181). -/
  unboundQuiet : ∀ t, (∀ c, (s.ch c).timerIdentity ≠ some t) → (s.timer t).Quiet
  /-- The resets still to come meet the launch premise (R181). -/
  resetsMeetPremise : ∀ platform, Stimulus.rst platform ∈ s.schedule → LaunchPremise platform

/-- An illegal command word in state `s`, cases (a) to (e) of R74, with the must-be-zero fields of R71. -/
def IllegalWord (s : State) (w : CommandWord) : Prop :=
  -- (a)
  opField w = 0x00 ∨ 0x09 ≤ opField w ∨
  -- (b) formats C, U, N, S of R71
  (opField w = 0x01 ∧ (freqField w ≠ 0 ∨ countField w ≠ 0)) ∨
  (opField w = 0x03 ∧ (argField w ≠ 0 ∨ countField w ≠ 0)) ∨
  ((opField w = 0x04 ∨ opField w = 0x05 ∨ opField w = 0x06 ∨ opField w = 0x07) ∧
    (argField w ≠ 0 ∨ freqField w ≠ 0 ∨ countField w ≠ 0)) ∨
  (opField w = 0x08 ∧ (chField w ≠ 0 ∨ countField w ≠ 0)) ∨
  -- (c) every format but S uses `ch`
  (opField w ≠ 0x08 ∧ s.cfg.nCh ≤ (chField w).toNat) ∨
  -- (d)
  (opField w = 0x08 ∧ argField w ≠ 0x08 ∧ argField w ≠ 0x10) ∨
  -- (e)
  (opField w = 0x01 ∧ (s.ch (chField w)).constructed = true)

/-- Every timer is halted (R195). -/
def State.Quiescent (s : State) : Prop := ∀ t, (s.timer t).cs = 0

/-- A run of a finite host program is over: no command is left and the state is quiescent (R195). -/
def State.RunOver (s : State) : Prop := (∀ w, Stimulus.command w ∉ s.schedule) ∧ s.Quiescent

/-- `k` steps of the machine. -/
def stepN : Nat → State → Host.Outcome State Fault Refusal
  | 0, s => .next s
  | k + 1, s =>
    match step s with
    | .next s' => stepN k s'
    | .fault r => .fault r
    | .refused r => .refused r

end Sys2Proof.Machine
end

