-- ==== Sys2Proof/Certificates/Slice0/Obligations.lean ====
section
/-! DEFINITION. The statements for the provers; each docstring names the rules of spec/ it formalises.
A next state is given in CLOSED FORM: a field the record update does not name is unchanged, a list entry at another
index than the one of `modify` or `set` is unchanged, and `trace` shows every register write and response in order.
So each such equation is the command's result, its frame and its completion at once.
Where a statement says `s.schedule = x :: rest`, `x` is the word presented, the event or the reset that comes next: the
schedule is the model's form of what R194 calls parameters of the step (log entry 4), the trace its record (entry 8). -/

open Sys2Proof Sys2Proof.Machine

/-! ### Encoding -/

/-- The worked examples' words (R90, R122, R127, R124, R128, R91, R129, R108) decode to the commands they stand for;
three reserved words (I1, I2, I4 of 95_test_vectors.md) and one stray field (I13) are refused by name. Sanity. -/
def Obligations.WorkedExampleWordsDecode : Prop :=
  decode 0x0100090000000000000000 = .ok (.construct 0 9) ∧
  decode 0x020001000003E800000003 = .ok (.generate 0 1 1000 3) ∧
  decode 0x0300000000001E00000000 = .ok (.updatefreq 0 30) ∧
  decode 0x0400000000000000000000 = .ok (.stop 0) ∧
  decode 0x0500000000000000000000 = .ok (.isrunning 0) ∧
  decode 0x0603000000000000000000 = .ok (.isvalid 3) ∧
  decode 0x0703000000000000000000 = .ok (.geterror 3) ∧
  decode 0x080010000003E800000000 = .ok (.solve 16 1000) ∧
  decode 0x0000000000000000000000 = .error (.reservedOpcode 0x00) ∧
  decode 0x0900000000000000000000 = .error (.reservedOpcode 0x09) ∧
  decode 0xFFFFFFFFFFFFFFFFFFFFFF = .error (.reservedOpcode 0xFF) ∧
  decode 0x0400000000000100000000 = .error (.mustBeZero .freq)

/-- Decoding an encoded command gives it back, every operand at every value its field admits (R70 to R73). -/
def Obligations.DecodeOfEncodeIsTheCommand : Prop :=
  ∀ i : Instr, decode (encode i) = .ok i

/-- A word that decodes to a command is that command's encoding: one word per command (R70 to R73). -/
def Obligations.EncodeOfDecodeIsTheWord : Prop :=
  ∀ (w : CommandWord) (i : Instr), decode w = .ok i → encode i = w

/-- The decoder gives a command of mnemonic `m` exactly when the word has the spelling of the table's row `m`,
`w and mask = match` (R73). -/
def Obligations.DecodeFollowsTheOpcodeTable : Prop :=
  ∀ (w : CommandWord) (m : String),
    (∃ i, decode w = .ok i ∧ i.mnemonic = m) ↔ (∃ r ∈ opcodeTable, r.mnemonic = m ∧ w &&& r.mask = r.pattern)

/-- An illegal word, cases (a) to (e) of R74, answers 0xFF000000 and changes nothing at all: the spec's `refuse` of U1
(that the model gives it as a next state is log entry 7). -/
def Obligations.IllegalWordIsAnsweredAndChangesNothing : Prop :=
  ∀ (s : State) (w : CommandWord) (rest : List Stimulus),
    s.schedule = .command w :: rest → IllegalWord s w →
      step s = .next { s with schedule := rest, trace := s.trace ++ [.response 0xFF000000] }

/-- The fields of the response word (R75). -/
def Obligations.ResponseWordFields : Prop :=
  ∀ (status val8 : Byte) (val16 : Half),
    (responseWord status val8 val16).extractLsb' 24 8 = status ∧
    (responseWord status val8 val16).extractLsb' 16 8 = val8 ∧
    (responseWord status val8 val16).extractLsb' 0 16 = val16

/-! ### The step -/

/-- A command word at the head of the schedule that decodes to `i` makes the step `exec i`, on the state without
that stimulus; with no stimulus left the machine waits; a presented word is the next stimulus (R79, R194). -/
def Obligations.StepRunsTheDecodedCommand : Prop :=
  ∀ (s : State),
    (∀ w rest i, s.schedule = .command w :: rest → decode w = .ok i →
      step s = exec i { s with schedule := rest }) ∧
    (∀ nbits w i, decodeTableWord nbits w = some i → step (s.withFetchWord nbits w) = exec i s) ∧
    (s.schedule = [] → step s = .next s)

/-- Every step answers a next state: no command and no event stops PTO (R131, R151, R160). -/
def Obligations.EveryStepAnswersANextState : Prop :=
  ∀ s : State, ∃ s', step s = .next s'

/-- A command gives exactly one response, after all its register writes; an event or a reset gives none (R75, R79). -/
def Obligations.OneResponsePerCommandAfterItsWrites : Prop :=
  ∀ (s s' : State) (x : Stimulus) (rest : List Stimulus), s.schedule = x :: rest → step s = .next s' →
    ∃ writes : List Output, (∀ o ∈ writes, ∃ t reg v m, o = .tregWrite t reg v m) ∧
      ((∃ w, x = .command w) → ∃ r, s'.trace = s.trace ++ writes ++ [.response r]) ∧
      ((∀ w, x ≠ .command w) → s'.trace = s.trace ++ writes)

/-- A step takes one stimulus, never changes the configuration (the opening of 10_state.md) and never rewrites what
the observer has. -/
def Obligations.StepKeepsConfigurationAndHistory : Prop :=
  ∀ s s' : State, step s = .next s' →
    s'.cfg = s.cfg ∧ s'.schedule = s.schedule.tail ∧ s.trace <+: s'.trace

/-! ### Reset -/

/-- After release of `rst` every piece of state has the value of R38's table: PTO's own state whatever the platform
left, the timer registers under the launch premise (R38, R181). `State.reset` is this for the example board (the
model's choice of configuration, log entry 2). -/
def Obligations.LaunchStateHasTheResetValues : Prop :=
  ∀ (cfg : Config) (platform : List TimerRegs),
    (State.launch cfg platform).Sized ∧
    (∀ c, (State.launch cfg platform).ch c = ⟨false, 0, none, .w16, .idle, .stopped, 0, 0, .none⟩) ∧
    (∀ t, (State.launch cfg platform).owner t = none) ∧
    (LaunchPremise platform → ∀ t, (State.launch cfg platform).timer t = ⟨0, 0, 0, 0, 0, 0, false⟩) ∧
    State.reset = State.launch Config.exampleBoard []

/-- A reset during a run: PTO's state returns to the reset values, PTO issues no register write, the timers hold what
the platform made them (R180, R181). -/
def Obligations.ResetDuringARunRestoresPtoState : Prop :=
  ∀ (s : State) (platform : List TimerRegs) (rest : List Stimulus), s.schedule = .rst platform :: rest →
    ∃ s', step s = .next s' ∧ s'.Sized ∧ s'.trace = s.trace ∧ s'.cfg = s.cfg ∧ s'.schedule = rest ∧
      (∀ c, s'.ch c = ⟨false, 0, none, .w16, .idle, .stopped, 0, 0, .none⟩) ∧ (∀ t, s'.owner t = none) ∧
      (∀ t, t.toNat < s.cfg.nTimer → s'.timer t = platform.getD t.toNat TimerRegs.zero)

/-! ### Channel binding -/

/-- CONSTRUCT, whole (R90): illegal, `Invalid` pin, bound. -/
def Obligations.ConstructBindsTheSlotOnce : Prop :=
  ∀ (s : State) (c p : Byte),
    runCommand (pack 0x01 c p 0 0) s = exec (.construct c p) s ∧
    (∀ freq count, (s.cfg.nCh ≤ c.toNat ∨ (s.ch c).constructed = true ∨ freq ≠ 0 ∨ count ≠ 0) →
      runCommand (pack 0x01 c p freq count) s = .next { s with trace := s.trace ++ [.response 0xFF000000] }) ∧
    (c.toNat < s.cfg.nCh → (s.ch c).constructed = false → lookupPin s.cfg p = none →
      exec (.construct c p) s = .next { s with
        channels := s.channels.modify c.toNat (fun r =>
          { r with constructed := true, pin := p, timerIdentity := none, lastError := .invalidPin })
        trace := s.trace ++ [.response 0x01000000] }) ∧
    (∀ t w, c.toNat < s.cfg.nCh → (s.ch c).constructed = false → lookupPin s.cfg p = some (t, w) →
      exec (.construct c p) s = .next { s with
        channels := s.channels.modify c.toNat (fun r =>
          { r with constructed := true, pin := p, timerIdentity := some t, counterWidth := w, lastError := .none })
        registry := s.registry.set t.toNat (some c)
        timers := s.timers.modify t.toNat (fun r => { r with ddr := r.ddr ||| 0x01 })
        trace := s.trace ++ [.tregWrite t .ddr 0x01 0x01, .response 0x00010000] })

/-- Once a slot is constructed its binding never changes, whatever the step but a reset, and a second CONSTRUCT on
it is illegal (R92). -/
def Obligations.BindingIsImmutable : Prop :=
  ∀ (s : State) (c : Byte), (s.ch c).constructed = true →
    (∀ s', step s = .next s' → (∀ platform rest, s.schedule ≠ .rst platform :: rest) →
      (s'.ch c).constructed = true ∧ (s'.ch c).pin = (s.ch c).pin ∧
        (s'.ch c).timerIdentity = (s.ch c).timerIdentity ∧ (s'.ch c).counterWidth = (s.ch c).counterWidth) ∧
    (∀ p, exec (.construct c p) s = .next { s with trace := s.trace ++ [.response 0xFF000000] })

/-- Eviction (R93): a second slot constructed on the same identity takes the registry entry, the first keeps all its
fields; from then on no event of that timer reaches any channel but the new owner, and not it either while it is not
running in Discrete mode (R158, R159). -/
def Obligations.EvictionRedirectsTheEvents : Prop :=
  ∀ (s : State) (c1 c2 p t : Byte) (w : Width), s.Sized → t.toNat < s.cfg.nTimer → s.owner t = some c1 → c1 ≠ c2 →
    c2.toNat < s.cfg.nCh → (s.ch c2).constructed = false → lookupPin s.cfg p = some (t, w) →
    ∃ s', exec (.construct c2 p) s = .next s' ∧ s'.owner t = some c2 ∧ s'.ch c1 = s.ch c1 ∧
      (∀ s'' : State, s''.owner t = some c2 →
        (∀ c, c ≠ c2 → (s''.compareMatch t).ch c = s''.ch c) ∧
        ((s''.ch c2).mode ≠ .discrete → (s''.compareMatch t).channels = s''.channels))

/-! ### The timing engine -/

/-- The search never returns a value outside the bound, and succeeds exactly when some divider fits (R102). -/
def Obligations.TimingStaysInBounds : Prop :=
  ∀ (cfg : Config) (f : Nat) (w : Width),
    (∀ tm, computeTiming cfg f w = some tm →
      tm.compareValue ≤ 2 ^ widthBits w - 1 ∧ ∃ p ∈ prescalers cfg w, p.selector = tm.selector) ∧
    ((computeTiming cfg f w).isSome = true ↔
      ∃ p ∈ prescalers cfg w, 1 ≤ cfg.fClk / (2 * p.divider * f) ∧
        cfg.fClk / (2 * p.divider * f) ≤ 2 ^ widthBits w)

/-- The divider chosen is the smallest that fits (R103). -/
def Obligations.SmallestFittingDividerIsChosen : Prop :=
  ∀ (cfg : Config) (f : Nat) (w : Width) (tm : Timing), PrescaleListOk (prescalers cfg w) →
    computeTiming cfg f w = some tm →
    ∃ p ∈ prescalers cfg w, p.selector = tm.selector ∧
      tm.compareValue + 1 = cfg.fClk / (2 * p.divider * f) ∧
      ∀ q ∈ prescalers cfg w, 1 ≤ cfg.fClk / (2 * q.divider * f) →
        cfg.fClk / (2 * q.divider * f) ≤ 2 ^ widthBits w → p.divider ≤ q.divider

/-- The achieved frequency is never below the request, and equal to it exactly when `2 P f` divides `F_CLK` (R104). -/
def Obligations.AchievedFrequencyIsNeverBelowTheRequest : Prop :=
  ∀ (cfg : Config) (f : Nat) (w : Width) (tm : Timing), PrescaleListOk (prescalers cfg w) → 1 ≤ f →
    computeTiming cfg f w = some tm →
    ∃ p ∈ prescalers cfg w, p.selector = tm.selector ∧
      f * outputPeriod p.divider tm.compareValue ≤ cfg.fClk ∧
      (f * outputPeriod p.divider tm.compareValue = cfg.fClk ↔ 2 * p.divider * f ∣ cfg.fClk)

/-- When the search fails (R106): (a) too high, (b) too low, (c) never in between when consecutive dividers are at
most `2^w + 1` apart in ratio. -/
def Obligations.OutOfRangeOnlyAtTheTwoEnds : Prop :=
  ∀ (cfg : Config) (f : Nat) (w : Width) (first last : Prescale), PrescaleListOk (prescalers cfg w) → 1 ≤ f →
    (prescalers cfg w).head? = some first → (prescalers cfg w).getLast? = some last →
    (cfg.fClk < 2 * first.divider * f → computeTiming cfg f w = none) ∧
    (2 ^ widthBits w + 1 ≤ cfg.fClk / (2 * last.divider * f) → computeTiming cfg f w = none) ∧
    (2 * first.divider * f ≤ cfg.fClk → cfg.fClk / (2 * last.divider * f) < 2 ^ widthBits w + 1 →
      (prescalers cfg w).IsChain (fun a b => b.divider ≤ (2 ^ widthBits w + 1) * a.divider) →
      (computeTiming cfg f w).isSome = true)

/-- The thresholds R106 gives for the default clock and divider lists, on both widths. -/
def Obligations.DefaultThresholds : Prop :=
  ∀ (cfg : Config) (f : Nat), cfg.fClk = 16000000 → cfg.presc16 = Config.defaultPresc16 →
    cfg.presc8 = Config.defaultPresc8 → 1 ≤ f →
    (computeTiming cfg f .w16).map (·.selector) =
      (if 8000000 < f then none else if 123 ≤ f then some 1 else if 16 ≤ f then some 2
        else if 2 ≤ f then some 3 else some 4) ∧
    (computeTiming cfg f .w8).map (·.selector) =
      (if 8000000 < f then none else if 31129 ≤ f then some 1 else if 3892 ≤ f then some 2
        else if 973 ≤ f then some 3 else if 487 ≤ f then some 4 else if 244 ≤ f then some 5
        else if 122 ≤ f then some 6 else if 31 ≤ f then some 7 else none)

/-- Giving up at the first divider whose quotient is 0 changes no result (R109). -/
def Obligations.EarlyExitGivesTheSameResult : Prop :=
  ∀ (fClk f : Nat) (w : Width) (l : List Prescale), 1 ≤ f → (∀ p ∈ l, 0 < p.divider) →
    l.Pairwise (fun a b => a.divider < b.divider) →
    searchPrescalersEarlyExit fClk f w l = searchPrescalers fClk f w l

/-- SOLVE, whole (R108): illegal, ZeroFrequency, FrequencyOutOfRange, the result; no state but the response. -/
def Obligations.SolveAnswersTheSolver : Prop :=
  ∀ (s : State) (wcode : Byte) (f : Word),
    (∀ ch count, (ch ≠ 0 ∨ count ≠ 0 ∨ (wcode ≠ 0x08 ∧ wcode ≠ 0x10)) →
      runCommand (pack 0x08 ch wcode f count) s = .next { s with trace := s.trace ++ [.response 0xFF000000] }) ∧
    (∀ w, (wcode = 0x08 ∧ w = Width.w8) ∨ (wcode = 0x10 ∧ w = Width.w16) →
      runCommand (pack 0x08 0 wcode f 0) s = exec (.solve wcode f) s ∧
      exec (.solve wcode f) s = .next { s with trace := s.trace ++ [.response (
        if f = 0 then 0x03000000
        else match computeTiming s.cfg f.toNat w with
          | none => 0x06000000
          | some tm => BitVec.ofNat 32 (tm.selector.toNat * 2 ^ 16 + tm.compareValue))] })

/-! ### GENERATE, UPDATEFREQ, STOP -/

/-- GENERATE's checks in their order, each failure's effect (R121, R123): the first failing check is recorded and
answered, and nothing else changes. -/
def Obligations.GenerateReportsTheFirstFailingCheck : Prop :=
  ∀ (s : State) (c m : Byte) (f n : Word),
    (s.cfg.nCh ≤ c.toNat →
      exec (.generate c m f n) s = .next { s with trace := s.trace ++ [.response 0xFF000000] }) ∧
    (c.toNat < s.cfg.nCh →
      let failsWith := fun (e : ErrorKind) (word : Word) =>
        exec (.generate c m f n) s = .next { s with
          channels := s.channels.modify c.toNat (fun r => { r with lastError := e })
          trace := s.trace ++ [.response word] }
      if (s.ch c).timerIdentity = none then failsWith .invalidPin 0x01000000
      else if (s.ch c).runState = .running then failsWith .alreadyActive 0x02000000
      else if f = 0 then failsWith .zeroFrequency 0x03000000
      else if m ≠ 0x01 ∧ m ≠ 0x02 then failsWith .invalidMode 0x05000000
      else if m = 0x01 ∧ n = 0 then failsWith .zeroPulses 0x04000000
      else computeTiming s.cfg f.toNat (s.ch c).counterWidth = none →
        failsWith .frequencyOutOfRange 0x06000000)

/-- GENERATE's effect when all checks pass (R122): the end state of the channel and of the timer's registers, and the
writes in order, the clock select last; Discrete and Continuous. -/
def Obligations.GenerateProgramsTheTimer : Prop :=
  ∀ (s : State) (c t : Byte) (f n : Word) (tm : Timing), c.toNat < s.cfg.nCh → (s.ch c).timerIdentity = some t →
    (s.ch c).runState = .idle → f ≠ 0 → computeTiming s.cfg f.toNat (s.ch c).counterWidth = some tm →
    (n ≠ 0 → exec (.generate c 0x01 f n) s = .next { s with
      channels := s.channels.modify c.toNat (fun r =>
        { r with
          runState := .running, mode := .discrete, lastError := .none
          pulseTarget := BitVec.ofNat 33 (2 * n.toNat), pulseRemaining := BitVec.ofNat 33 (2 * n.toNat) })
      timers := s.timers.modify t.toNat (fun r =>
        { r with
          cra := 0x41, crb := tm.selector.setWidth 8, imr := r.imr ||| 0x01
          ocr := BitVec.ofNat 16 tm.compareValue, out := false })
      trace := s.trace ++
        [.tregWrite t .cra 0x00 0xFF, .tregWrite t .crb 0x00 0xFF,
         .tregWrite t .ocr (BitVec.ofNat 16 tm.compareValue) 0xFFFF, .tregWrite t .cra 0x41 0xC1,
         .tregWrite t .imr 0x01 0x01, .tregWrite t .crb (tm.selector.setWidth 16) 0x07,
         .response 0x00010000] }) ∧
    exec (.generate c 0x02 f n) s = .next { s with
      channels := s.channels.modify c.toNat (fun r =>
        { r with runState := .running, mode := .continuous, lastError := .none })
      timers := s.timers.modify t.toNat (fun r =>
        { r with
          cra := 0x41, crb := tm.selector.setWidth 8, ocr := BitVec.ofNat 16 tm.compareValue, out := false })
      trace := s.trace ++
        [.tregWrite t .cra 0x00 0xFF, .tregWrite t .crb 0x00 0xFF,
         .tregWrite t .ocr (BitVec.ofNat 16 tm.compareValue) 0xFFFF, .tregWrite t .cra 0x41 0xC1,
         .tregWrite t .crb (tm.selector.setWidth 16) 0x07, .response 0x00010000] }

/-- UPDATEFREQ, whole (R127): illegal, the checks in their order, the swap of compare value and clock select. -/
def Obligations.UpdatefreqSwapsTheTiming : Prop :=
  ∀ (s : State) (c : Byte) (f : Word),
    runCommand (pack 0x03 c 0 f 0) s = exec (.updatefreq c f) s ∧
    (∀ arg count, (s.cfg.nCh ≤ c.toNat ∨ arg ≠ 0 ∨ count ≠ 0) →
      runCommand (pack 0x03 c arg f count) s = .next { s with trace := s.trace ++ [.response 0xFF000000] }) ∧
    (c.toNat < s.cfg.nCh →
      let failsWith := fun (e : ErrorKind) (word : Word) =>
        exec (.updatefreq c f) s = .next { s with
          channels := s.channels.modify c.toNat (fun r => { r with lastError := e })
          trace := s.trace ++ [.response word] }
      match (s.ch c).timerIdentity with
      | none => failsWith .invalidPin 0x01000000
      | some t =>
        if (s.ch c).runState ≠ .running then failsWith .notRunning 0x07000000
        else if f = 0 then failsWith .zeroFrequency 0x03000000
        else match computeTiming s.cfg f.toNat (s.ch c).counterWidth with
          | none => failsWith .frequencyOutOfRange 0x06000000
          | some tm => exec (.updatefreq c f) s = .next { s with
              channels := s.channels.modify c.toNat (fun r => { r with lastError := .none })
              timers := s.timers.modify t.toNat (fun r =>
                { r with
                  ocr := BitVec.ofNat 16 tm.compareValue
                  crb := (r.crb &&& 0xF8) ||| tm.selector.setWidth 8 })
              trace := s.trace ++
                [.tregWrite t .ocr (BitVec.ofNat 16 tm.compareValue) 0xFFFF,
                 .tregWrite t .crb (tm.selector.setWidth 16) 0x07, .response 0x00010000] })

/-- STOP, whole, with the effect of `do_stop` (R124, R126): the four masked writes in order, only the named bits
cleared, the counters and `lastError` kept; on a slot without a timer only (Idle, Stopped). -/
def Obligations.StopHaltsTheChannel : Prop :=
  ∀ (s : State) (c : Byte),
    runCommand (pack 0x04 c 0 0 0) s = exec (.stop c) s ∧
    (∀ arg freq count, (s.cfg.nCh ≤ c.toNat ∨ arg ≠ 0 ∨ freq ≠ 0 ∨ count ≠ 0) →
      runCommand (pack 0x04 c arg freq count) s = .next { s with trace := s.trace ++ [.response 0xFF000000] }) ∧
    (c.toNat < s.cfg.nCh → (s.ch c).timerIdentity = none →
      exec (.stop c) s = .next { s with
        channels := s.channels.modify c.toNat (fun r => { r with runState := .idle, mode := .stopped })
        trace := s.trace ++ [.response 0x00000000] }) ∧
    (∀ t, c.toNat < s.cfg.nCh → (s.ch c).timerIdentity = some t →
      exec (.stop c) s = .next { s with
        channels := s.channels.modify c.toNat (fun r => { r with runState := .idle, mode := .stopped })
        timers := s.timers.modify t.toNat (fun r =>
          { r with
            cra := r.cra &&& 0x3F, port := r.port &&& 0xFE, crb := r.crb &&& 0xF8, imr := r.imr &&& 0xFE
            out := false })
        trace := s.trace ++
          [.tregWrite t .cra 0x00 0xC0, .tregWrite t .port 0x00 0x01, .tregWrite t .crb 0x00 0x07,
           .tregWrite t .imr 0x00 0x01, .response 0x00000000] })

/-- Two STOPs in a row leave the state one leaves, and a STOP on an Idle valid channel changes no register bit and no
field (R125). -/
def Obligations.StopIsIdempotent : Prop :=
  ∀ (s : State) (c : Byte),
    (∃ s1 s2, exec (.stop c) s = .next s1 ∧ exec (.stop c) s1 = .next s2 ∧ { s2 with trace := s1.trace } = s1) ∧
    (∀ t, s.Inv → s.Unshared → (s.ch c).timerIdentity = some t → (s.ch c).runState = .idle →
      ∃ s1, exec (.stop c) s = .next s1 ∧ { s1 with trace := s.trace } = s)

/-- After a STOP the pin of a bound channel is LOW (R126, R168), whatever ran before. -/
def Obligations.StopLeavesThePinLow : Prop :=
  ∀ (s : State) (c t : Byte), c.toNat < s.cfg.nCh → t.toNat < s.timers.length →
    (s.ch c).timerIdentity = some t → (s.timer t).direction = 1 →
    ∃ s', exec (.stop c) s = .next s' ∧ (s'.timer t).pinLevel = some false ∧ (s'.timer t).cs = 0 ∧
      (s'.timer t).cmie = 0

/-- The three queries answer their field and change nothing (R91, R128; the body of R129), and are illegal with a stray field or a
slot that does not exist. -/
def Obligations.QueriesAnswerTheirField : Prop :=
  ∀ (s : State) (c : Byte),
    (∀ op i, (op, i) ∈ [((0x05 : Byte), Instr.isrunning c), (0x06, .isvalid c), (0x07, .geterror c)] →
      runCommand (pack op c 0 0 0) s = exec i s ∧
      ∀ arg freq count, (s.cfg.nCh ≤ c.toNat ∨ arg ≠ 0 ∨ freq ≠ 0 ∨ count ≠ 0) →
        runCommand (pack op c arg freq count) s = .next { s with trace := s.trace ++ [.response 0xFF000000] }) ∧
    (c.toNat < s.cfg.nCh →
      exec (.isrunning c) s = .next { s with trace := s.trace ++
        [.response (if (s.ch c).runState = .running then 0x00010000 else 0)] } ∧
      exec (.isvalid c) s = .next { s with trace := s.trace ++
        [.response (if (s.ch c).timerIdentity ≠ none then 0x00010000 else 0)] } ∧
      exec (.geterror c) s = .next { s with trace := s.trace ++
        [.response (match (s.ch c).lastError with
          | .none => 0 | .invalidPin => 0x00010000 | .alreadyActive => 0x00020000
          | .zeroFrequency => 0x00030000 | .zeroPulses => 0x00040000 | .invalidMode => 0x00050000
          | .frequencyOutOfRange => 0x00060000 | .notRunning => 0x00070000)] })

/-! ### Errors -/

/-- Which command can report which error, complete (R152): the status of the one response is 0xFF exactly for an
illegal command, and otherwise 0 or a code from the command's own list; the handler reports none. -/
def Obligations.EachCommandReportsOnlyItsOwnErrors : Prop :=
  ∀ (s : State) (i : Instr), ∃ s' r, exec i s = .next s' ∧ s'.trace.getLast? = some (.response r) ∧
    (r.extractLsb' 24 8 = 0xFF ↔ IllegalWord s (encode i)) ∧
    (r.extractLsb' 24 8 ≠ 0xFF → r.extractLsb' 24 8 ∈ (0 : Byte) :: (match i with
      | .construct _ _ => [1]
      | .generate _ _ _ _ => [1, 2, 3, 5, 4, 6]
      | .updatefreq _ _ => [1, 7, 3, 6]
      | .solve _ _ => [3, 6]
      | .stop _ => [] | .isrunning _ => [] | .isvalid _ => [] | .geterror _ => [])) ∧
    ∀ c d, ((s.handleInterrupt c).ch d).lastError = (s.ch d).lastError

/-- Exactly CONSTRUCT, GENERATE and UPDATEFREQ of a channel write its `lastError`, and each stores what it reports:
the classification on failure, `None` on success; an illegal one writes nothing (R130). -/
def Obligations.OnlyThreeCommandsWriteLastError : Prop :=
  (∀ (s s' : State) (c : Byte), step s = .next s' → (∀ platform rest, s.schedule ≠ .rst platform :: rest) →
    (s'.ch c).lastError ≠ (s.ch c).lastError →
    ∃ w rest i, s.schedule = .command w :: rest ∧ decode w = .ok i ∧
      ((∃ p, i = .construct c p) ∨ (∃ m f n, i = .generate c m f n) ∨ (∃ f, i = .updatefreq c f))) ∧
  (∀ (s : State) (c : Byte) (i : Instr), s.Sized →
    ((∃ p, i = .construct c p) ∨ (∃ m f n, i = .generate c m f n) ∨ (∃ f, i = .updatefreq c f)) →
    ∃ s' r, exec i s = .next s' ∧ s'.trace.getLast? = some (.response r) ∧
      ((r.extractLsb' 24 8 = 0xFF ∧ s'.channels = s.channels) ∨
        r.extractLsb' 24 8 = (s'.ch c).lastError.code))

/-! ### The compare-match event -/

/-- While the counter is halted there is no event (R166): one offered changes nothing (U13; that the model drops it is
log entry 6). -/
def Obligations.HaltedTimerHasNoEvent : Prop :=
  ∀ (s : State) (t : Byte) (rest : List Stimulus), s.schedule = .compareMatch t :: rest →
    (s.timer t).cs = 0 → step s = .next { s with schedule := rest }

/-- A run that is over stays over (R195): with no command left and every timer halted, no event that is offered, and
no number of them, changes any state; only a command or a reset could. -/
def Obligations.RunThatIsOverStaysOver : Prop :=
  ∀ (s : State) (k : Nat), s.RunOver → (∀ platform, Stimulus.rst platform ∉ s.schedule) →
    ∃ s' : State, stepN k s = .next s' ∧ s'.RunOver ∧ { s' with schedule := s.schedule } = s

/-- A compare match of a running timer (R158, R159, R167): the output unit flips while the pin is connected; with the
interrupt enabled the owner's handler counts down, and at the last count stops the channel; otherwise nothing. -/
def Obligations.CompareMatchTogglesAndCounts : Prop :=
  ∀ (s : State) (t : Byte) (rest : List Stimulus), s.schedule = .compareMatch t :: rest → (s.timer t).cs ≠ 0 →
    let flip := fun r : TimerRegs =>
      { r with out := if r.cra.extractLsb' 6 2 = 0b01 then !r.out else r.out }
    let toggled : State := { s with schedule := rest, timers := s.timers.modify t.toNat flip }
    if (s.timer t).cmie = 0 then step s = .next toggled
    else match s.owner t with
      | none => step s = .next toggled
      | some c =>
        if (s.ch c).runState = .running ∧ (s.ch c).mode = .discrete ∧ 1 ≤ (s.ch c).pulseRemaining.toNat then
          if 2 ≤ (s.ch c).pulseRemaining.toNat then
            step s = .next { toggled with
              channels := s.channels.modify c.toNat (fun r => { r with pulseRemaining := r.pulseRemaining - 1 }) }
          else match (s.ch c).timerIdentity with
            | none => step s = .next { toggled with
              channels := s.channels.modify c.toNat (fun r =>
                { r with pulseRemaining := 0, runState := .idle, mode := .stopped }) }
            | some u => step s = .next { toggled with
              channels := s.channels.modify c.toNat (fun r =>
                { r with pulseRemaining := 0, runState := .idle, mode := .stopped })
              timers := toggled.timers.modify u.toNat (fun r =>
                { r with
                  cra := r.cra &&& 0x3F, port := r.port &&& 0xFE, crb := r.crb &&& 0xF8, imr := r.imr &&& 0xFE
                  out := false })
              trace := s.trace ++
                [.tregWrite u .cra 0x00 0xC0, .tregWrite u .port 0x00 0x01, .tregWrite u .crb 0x00 0x07,
                 .tregWrite u .imr 0x00 0x01] }
        else step s = .next toggled

/-- Events of two different timers commute: served in either order they leave the same state, but for the order of
the record (R163). -/
def Obligations.EventsOfDifferentTimersCommute : Prop :=
  ∀ (s : State) (t u : Byte) (rest : List Stimulus), t ≠ u → s.RegistryConsistent →
    ∃ a b : State,
      stepN 2 { s with schedule := .compareMatch t :: .compareMatch u :: rest } = .next a ∧
      stepN 2 { s with schedule := .compareMatch u :: .compareMatch t :: rest } = .next b ∧
      { a with trace := [] } = { b with trace := [] }

/-- The pin level (R168): undriven, the output unit's, or the latch's; and every write of `CRA` that leaves the pin
disconnected forces the output unit LOW. -/
def Obligations.PinLevelFollowsTheRegisters : Prop :=
  ∀ (r : TimerRegs),
    (r.direction = 0 → r.pinLevel = none) ∧
    (r.direction = 1 → r.pa = 0b01 → r.pinLevel = some r.out) ∧
    (r.direction = 1 → r.pa = 0b00 → r.pinLevel = some (r.port.getLsbD 0)) ∧
    (∀ value mask, (r.write .cra value mask).pa = 0b00 → (r.write .cra value mask).out = false)

/-- A Discrete run with its channel registered ends after exactly `k` events, `k` the count left: before the last it
is still running with the count lowered by one each and the pin flipped by each; at the last it is Idle, its timer
halted and masked, its pin LOW (R159, R168, R195 b). -/
def Obligations.DiscreteRunEndsAfterExactlyTheCountLeft : Prop :=
  ∀ (s : State) (c t : Byte) (k : Nat) (rest : List Stimulus), t.toNat < s.timers.length →
    s.owner t = some c → (s.ch c).timerIdentity = some t →
    (s.ch c).runState = .running → (s.ch c).mode = .discrete → (s.ch c).pulseRemaining.toNat = k → 1 ≤ k →
    (s.timer t).cs ≠ 0 → (s.timer t).cmie = 1 → (s.timer t).pa = paToggleOnMatch → (s.timer t).direction = 1 →
    s.schedule = List.replicate k (.compareMatch t) ++ rest →
    ∀ j ≤ k, ∃ s' : State, stepN j s = .next s' ∧
      s'.schedule = List.replicate (k - j) (.compareMatch t) ++ rest ∧
      (s'.ch c).pulseRemaining.toNat = k - j ∧
      (∀ d, d ≠ c → s'.ch d = s.ch d) ∧ (∀ u, u ≠ t → s'.timer u = s.timer u) ∧
      (j < k → (s'.ch c).runState = .running ∧ (s'.ch c).mode = .discrete ∧ s'.trace = s.trace ∧
        (s'.timer t).cs ≠ 0 ∧
        (s'.timer t).pinLevel = some (if j % 2 = 0 then (s.timer t).out else !(s.timer t).out)) ∧
      (j = k → (s'.ch c).runState = .idle ∧ (s'.ch c).mode = .stopped ∧
        (s'.timer t).cs = 0 ∧ (s'.timer t).cmie = 0 ∧ (s'.timer t).pinLevel = some false ∧
        s'.trace = s.trace ++
          [.tregWrite t .cra 0x00 0xC0, .tregWrite t .port 0x00 0x01, .tregWrite t .crb 0x00 0x07,
           .tregWrite t .imr 0x00 0x01])

/-- `N` pulses are exactly `2N` serviced events (R159, R168): after a successful Discrete GENERATE of `n` pulses the
pin is HIGH after every odd event and LOW after every even one, the channel runs through event `2n - 1`, and event
`2n` stops it. -/
def Obligations.NPulsesAreExactlyTwoNEvents : Prop :=
  ∀ (s : State) (c t : Byte) (f n : Word) (tm : Timing) (rest : List Stimulus), s.Inv →
    s.owner t = some c → (s.ch c).runState = .idle → f ≠ 0 → n ≠ 0 →
    computeTiming s.cfg f.toNat (s.ch c).counterWidth = some tm →
    s.schedule = .command (encode (.generate c 0x01 f n)) :: List.replicate (2 * n.toNat) (.compareMatch t) ++ rest →
    ∀ j ≤ 2 * n.toNat, ∃ s' : State, stepN (1 + j) s = .next s' ∧
      (s'.ch c).pulseRemaining.toNat = 2 * n.toNat - j ∧
      ((s'.ch c).runState = .running ↔ j < 2 * n.toNat) ∧
      (s'.timer t).pinLevel = some (decide (j % 2 = 1)) ∧
      ((s'.timer t).cs = 0 ↔ j = 2 * n.toNat)

/-- A run whose events no handler counts never ends by itself (R195 a and c): with the interrupt off (Continuous
mode), or with the events going to an owner that is not running in Discrete mode (eviction), any number of events
changes nothing but the output unit, and the timer keeps running. -/
def Obligations.UncountedRunNeverEndsByItself : Prop :=
  ∀ (s : State) (t : Byte) (k : Nat) (rest : List Stimulus), t.toNat < s.timers.length →
    (s.timer t).cs ≠ 0 → (s.timer t).pa = paToggleOnMatch →
    ((s.timer t).cmie = 0 ∨ ∀ c, s.owner t = some c → (s.ch c).mode ≠ .discrete) →
    s.schedule = List.replicate k (.compareMatch t) ++ rest →
    ∃ s' : State, stepN k s = .next s' ∧ s'.schedule = rest ∧ s'.cfg = s.cfg ∧ s'.channels = s.channels ∧
      s'.registry = s.registry ∧ s'.trace = s.trace ∧
      (∀ u, u ≠ t → s'.timer u = s.timer u) ∧
      s'.timer t = { s.timer t with out := if k % 2 = 0 then (s.timer t).out else !(s.timer t).out }

/-! ### Whole runs: the fairness of a running timer -/

/-- A finite schedule and the stream that begins with it make the same run: serving the list step by step is the
trajectory under it (R194; the two forms are the model's, log entry 4). -/
def Obligations.ScheduleAndStreamMakeTheSameRun : Prop :=
  ∀ (s : State) (l : List Stimulus),
    stepN l.length { s with schedule := l } = .next (trajectory s (fun k => l[k]?) l.length)

/-- Every finite beginning in which only running timers have events goes on as an admissible run, and so as one that is
weakly fair to every timer (R166): fairness forbids no beginning, "nothing bounds how soon" an event comes. -/
def Obligations.EveryBeginningExtendsToAFairRun : Prop :=
  ∀ (s : State) (start : Inputs) (n : Nat),
    (∀ k t, k < n → start k = some (.compareMatch t) → ((trajectory s start k).timer t).cs ≠ 0) →
    ∃ input : Inputs, (∀ k, k < n → input k = start k) ∧ Admissible s input

/-- A Discrete run ends by itself (R195 b, by the fairness of R166): in every admissible run from a state with the
invariants in which `c` owns `t` and is Running in Discrete mode with `k` toggles left, the interrupt on and the counter
running, and whose host leaves `ch[c]`, `registry[t]` and `T[t].*` alone, there is an instant before which exactly `k`
events of `t` came, at which `c` is Idle and `t` halted and masked, and until which `c` was running. -/
def Obligations.FairDiscreteRunEndsByItself : Prop :=
  ∀ (s : State) (c t : Byte) (k : Nat) (input : Inputs), s.Inv → s.owner t = some c →
    (s.ch c).runState = .running → (s.ch c).mode = .discrete → (s.ch c).pulseRemaining.toNat = k →
    (s.timer t).cmie = 1 → (s.timer t).cs ≠ 0 → Admissible s input → HostLeaves s input t →
    ∃ n, eventsBefore input t n = k ∧
      ((trajectory s input n).ch c).runState = .idle ∧ ((trajectory s input n).ch c).mode = .stopped ∧
      ((trajectory s input n).timer t).cs = 0 ∧ ((trajectory s input n).timer t).cmie = 0 ∧
      ∀ j, j < n → ((trajectory s input j).ch c).runState = .running

/-- A running timer has events for ever (R166, R195 a and c): in every admissible run in which no handler counts its
events and whose host leaves it alone, the timer runs at every instant and after every instant an event of it comes. -/
def Obligations.FairRunningTimerHasEventsForEver : Prop :=
  ∀ (s : State) (t : Byte) (input : Inputs), s.Inv → (s.timer t).cs ≠ 0 →
    ((s.timer t).cmie = 0 ∨ ∀ c, s.owner t = some c → (s.ch c).mode ≠ .discrete) →
    Admissible s input → HostLeaves s input t →
    ∀ n, ((trajectory s input n).timer t).cs ≠ 0 ∧ ∃ j, n ≤ j ∧ input j = some (.compareMatch t)

/-! ### Whole-machine rules -/

/-- The complete transition table (R120): a step other than a reset changes the pair (runState, mode) of a channel
only from Stopped by a successful GENERATE of that channel, to the mode it names, or to Stopped by a STOP of that
channel or by the event that brings its Discrete count to 0; and each of these does make the transition. -/
def Obligations.StateMachineFollowsTheTransitionTable : Prop :=
  ∀ (s s' : State) (c : Byte), ((s.ch c).runState = .idle ↔ (s.ch c).mode = .stopped) → step s = .next s' →
    (∀ platform rest, s.schedule ≠ .rst platform :: rest) →
    (((s'.ch c).runState = (s.ch c).runState ∧ (s'.ch c).mode = (s.ch c).mode) ∨
    ((s.ch c).runState = .idle ∧ (s'.ch c).runState = .running ∧
      ∃ w rest m f n, s.schedule = .command w :: rest ∧ decode w = .ok (.generate c m f n) ∧
        s'.trace.getLast? = some (.response 0x00010000) ∧
        ((m = 0x01 ∧ (s'.ch c).mode = .discrete) ∨ (m = 0x02 ∧ (s'.ch c).mode = .continuous))) ∨
    ((s.ch c).runState = .running ∧ (s'.ch c).runState = .idle ∧ (s'.ch c).mode = .stopped ∧
      ((∃ w rest, s.schedule = .command w :: rest ∧ decode w = .ok (.stop c)) ∨
        (∃ t rest, s.schedule = .compareMatch t :: rest ∧ s.owner t = some c ∧ (s.ch c).mode = .discrete ∧
          (s.ch c).pulseRemaining.toNat = 1 ∧ (s'.ch c).pulseRemaining.toNat = 0)))) ∧
    (∀ w rest m f n, s.schedule = .command w :: rest → decode w = .ok (.generate c m f n) →
      s'.trace.getLast? = some (.response 0x00010000) →
      (s'.ch c).runState = .running ∧ (s'.ch c).mode = (if m = 0x01 then .discrete else .continuous)) ∧
    (∀ w rest, s.schedule = .command w :: rest → decode w = .ok (.stop c) → c.toNat < s.cfg.nCh →
      (s'.ch c).runState = .idle ∧ (s'.ch c).mode = .stopped) ∧
    (∀ t rest, s.schedule = .compareMatch t :: rest → (s.timer t).cs ≠ 0 → (s.timer t).cmie = 1 →
      s.owner t = some c → (s.ch c).mode = .discrete → (s.ch c).pulseRemaining.toNat = 1 →
      (s'.ch c).runState = .idle ∧ (s'.ch c).mode = .stopped)

/-- The invariants of R39 (I1 to I6, with the conjuncts that make them inductive) are kept by every step from every
state that has them. -/
def Obligations.EveryStepKeepsTheInvariants : Prop :=
  ∀ s s' : State, s.Inv → step s = .next s' → s'.Inv

/-- The invariants of R39 hold right after reset, under every configuration that meets its premises and the launch
premise; State.reset (the model's choice of configuration, log entry 2) among them. -/
def Obligations.InvariantsHoldAfterReset : Prop :=
  (∀ (cfg : Config) (platform : List TimerRegs), cfg.Ok → LaunchPremise platform →
    (State.launch cfg platform).Inv) ∧ State.reset.Inv

/-- PTO never reads a timer register (R55): with other register contents a command, and the handler, make the same
channel file, registry and record. -/
def Obligations.PtoNeverReadsATimerRegister : Prop :=
  ∀ (s : State) (others : List TimerRegs),
    (∀ i, ∃ a b : State, exec i s = .next a ∧ exec i { s with timers := others } = .next b ∧
      a.channels = b.channels ∧ a.registry = b.registry ∧ a.trace = b.trace) ∧
    (∀ c, (s.handleInterrupt c).channels = (({ s with timers := others } : State).handleInterrupt c).channels ∧
      (s.handleInterrupt c).registry = (({ s with timers := others } : State).handleInterrupt c).registry ∧
      (s.handleInterrupt c).trace = (({ s with timers := others } : State).handleInterrupt c).trace)

/-- The frame of every command: a command touches no channel but the one it names, no timer but that channel's, no
registry entry unless it is a CONSTRUCT, and never the configuration; SOLVE touches nothing (R29, R105, R133). -/
def Obligations.CommandTouchesOnlyItsChannelAndTimer : Prop :=
  ∀ (s : State) (i : Instr), s.Sized → ∃ s', exec i s = .next s' ∧ s'.cfg = s.cfg ∧ s'.schedule = s.schedule ∧
    (∀ d, i.slot ≠ some d → s'.ch d = s.ch d) ∧
    (∀ t, (∀ c, i.slot = some c → (s'.ch c).timerIdentity ≠ some t) →
      s'.timer t = s.timer t ∧ s'.owner t = s.owner t) ∧
    ((∀ c p, i ≠ .construct c p) → s'.registry = s.registry)

/-- Bits PTO never writes stay as they are (R32, R34, R35), the latch of a pin is only ever cleared and its direction
only ever set, by every step but a reset. -/
def Obligations.ReservedRegisterBitsAreNeverWritten : Prop :=
  ∀ (s s' : State) (t : Byte), step s = .next s' → (∀ platform rest, s.schedule ≠ .rst platform :: rest) →
    (s'.timer t).imr &&& 0xFE = (s.timer t).imr &&& 0xFE ∧
    (s'.timer t).port &&& 0xFE = (s.timer t).port &&& 0xFE ∧
    (s'.timer t).ddr &&& 0xFE = (s.timer t).ddr &&& 0xFE ∧
    ((s'.timer t).latch = 1 → (s.timer t).latch = 1) ∧
    ((s.timer t).direction = 1 → (s'.timer t).direction = 1)

/-- One register write (R54, R56): under the mask the bit of the value, elsewhere the old bit; the other registers of
the identity, and every other identity (R29), unchanged; writing twice is writing once. -/
def Obligations.RegisterWriteChangesOnlyMaskedBits : Prop :=
  ∀ (s : State) (t : Byte) (reg : TReg) (value mask : Half), t.toNat < s.timers.length →
    let s' := s.tregWrite t reg value mask
    (∀ i, i < reg.bits → ((s'.timer t).get reg).getLsbD i =
      if mask.getLsbD i then value.getLsbD i else ((s.timer t).get reg).getLsbD i) ∧
    (∀ other, other ≠ reg → (s'.timer t).get other = (s.timer t).get other) ∧
    (∀ u, u ≠ t → s'.timer u = s.timer u) ∧
    (s'.tregWrite t reg value mask).timers = s'.timers ∧
    s'.channels = s.channels ∧ s'.registry = s.registry
end

