-- ==== Sys2Proof/Laws/State.lean ====
section
/-! SUPPORT. One lemma per field per update: what each named operation of Ops.lean does to each field of State. -/

namespace Sys2Proof.Machine

variable (s : State) (c t : Byte) (f : Channel → Channel) (reg : TReg) (v m : Half) (a b : Byte) (d : Half)

@[simp] theorem updCh_cfg : (s.updCh c f).cfg = s.cfg := rfl
@[simp] theorem updCh_channels : (s.updCh c f).channels = s.channels.modify c.toNat f := rfl
@[simp] theorem updCh_registry : (s.updCh c f).registry = s.registry := rfl
@[simp] theorem updCh_timers : (s.updCh c f).timers = s.timers := rfl
@[simp] theorem updCh_schedule : (s.updCh c f).schedule = s.schedule := rfl
@[simp] theorem updCh_trace : (s.updCh c f).trace = s.trace := rfl

@[simp] theorem setOwner_cfg : (s.setOwner t c).cfg = s.cfg := rfl
@[simp] theorem setOwner_channels : (s.setOwner t c).channels = s.channels := rfl
@[simp] theorem setOwner_registry : (s.setOwner t c).registry = s.registry.set t.toNat (some c) := rfl
@[simp] theorem setOwner_timers : (s.setOwner t c).timers = s.timers := rfl
@[simp] theorem setOwner_schedule : (s.setOwner t c).schedule = s.schedule := rfl
@[simp] theorem setOwner_trace : (s.setOwner t c).trace = s.trace := rfl

@[simp] theorem tregWrite_cfg : (s.tregWrite t reg v m).cfg = s.cfg := rfl
@[simp] theorem tregWrite_channels : (s.tregWrite t reg v m).channels = s.channels := rfl
@[simp] theorem tregWrite_registry : (s.tregWrite t reg v m).registry = s.registry := rfl
@[simp] theorem tregWrite_timers :
    (s.tregWrite t reg v m).timers = s.timers.modify t.toNat (fun r => r.write reg v m) := rfl
@[simp] theorem tregWrite_schedule : (s.tregWrite t reg v m).schedule = s.schedule := rfl
@[simp] theorem tregWrite_trace : (s.tregWrite t reg v m).trace = s.trace ++ [.tregWrite t reg v m] := rfl

@[simp] theorem respond_cfg : (s.respond a b d).cfg = s.cfg := rfl
@[simp] theorem respond_channels : (s.respond a b d).channels = s.channels := rfl
@[simp] theorem respond_registry : (s.respond a b d).registry = s.registry := rfl
@[simp] theorem respond_timers : (s.respond a b d).timers = s.timers := rfl
@[simp] theorem respond_schedule : (s.respond a b d).schedule = s.schedule := rfl
@[simp] theorem respond_trace : (s.respond a b d).trace = s.trace ++ [.response (responseWord a b d)] := rfl

variable (platform : List TimerRegs)

@[simp] theorem restart_cfg : (s.restart platform).cfg = s.cfg := rfl
@[simp] theorem restart_channels :
    (s.restart platform).channels = List.replicate s.cfg.nCh Channel.initial := rfl
@[simp] theorem restart_registry : (s.restart platform).registry = List.replicate s.cfg.nTimer none := rfl
@[simp] theorem restart_timers : (s.restart platform).timers =
    (List.range s.cfg.nTimer).map (fun t => platform.getD t TimerRegs.zero) := rfl
@[simp] theorem restart_schedule : (s.restart platform).schedule = s.schedule := rfl
@[simp] theorem restart_trace : (s.restart platform).trace = s.trace := rfl

/-! The accessors do not see updates of other parts. -/

@[simp] theorem ch_setOwner (e : Byte) : (s.setOwner t c).ch e = s.ch e := rfl
@[simp] theorem ch_tregWrite (e : Byte) : (s.tregWrite t reg v m).ch e = s.ch e := rfl
@[simp] theorem ch_respond (e : Byte) : (s.respond a b d).ch e = s.ch e := rfl
@[simp] theorem owner_updCh (e : Byte) : (s.updCh c f).owner e = s.owner e := rfl
@[simp] theorem owner_tregWrite (e : Byte) : (s.tregWrite t reg v m).owner e = s.owner e := rfl
@[simp] theorem owner_respond (e : Byte) : (s.respond a b d).owner e = s.owner e := rfl
@[simp] theorem timer_updCh (e : Byte) : (s.updCh c f).timer e = s.timer e := rfl
@[simp] theorem timer_setOwner (e : Byte) : (s.setOwner t c).timer e = s.timer e := rfl
@[simp] theorem timer_respond (e : Byte) : (s.respond a b d).timer e = s.timer e := rfl

end Sys2Proof.Machine
end

