-- ==== Sys2Proof/Laws/Ops.lean ====
section
/-! SUPPORT. One lemma per shared operation, saying everything it does: the accessors after an update, the closed
forms of the register programming sequences, the cases of the handler and of the compare-match event. -/

namespace Sys2Proof.Machine

/-! ### Lists read with a default -/

theorem getD_modify {α : Type} (l : List α) (i j : Nat) (f : α → α) (d : α) :
    (l.modify i f).getD j d = if i = j ∧ i < l.length then f (l.getD j d) else l.getD j d := by
  simp only [List.getD_eq_getElem?_getD, List.getElem?_modify]
  by_cases hij : i = j
  · subst hij
    by_cases hi : i < l.length
    · simp [hi]
    · simp [hi]
  · simp [hij]

theorem getD_set {α : Type} (l : List α) (i j : Nat) (a d : α) :
    (l.set i a).getD j d = if i = j ∧ i < l.length then a else l.getD j d := by
  simp only [List.getD_eq_getElem?_getD, List.getElem?_set]
  by_cases hij : i = j
  · subst hij
    by_cases hi : i < l.length
    · simp [hi]
    · simp [hi]
  · simp [hij]

/-! ### Accessors after an update -/

theorem ch_updCh (s : State) (c e : Byte) (f : Channel → Channel) :
    (s.updCh c f).ch e = if c = e ∧ c.toNat < s.channels.length then f (s.ch e) else s.ch e := by
  simp only [State.ch, updCh_channels, getD_modify, BitVec.toNat_inj]

theorem ch_updCh_of_ne (s : State) {c e : Byte} (f : Channel → Channel) (h : e ≠ c) : (s.updCh c f).ch e = s.ch e := by
  rw [ch_updCh, if_neg (fun hc => h hc.1.symm)]

theorem owner_setOwner (s : State) (t c e : Byte) :
    (s.setOwner t c).owner e = if t = e ∧ t.toNat < s.registry.length then some c else s.owner e := by
  simp only [State.owner, setOwner_registry, getD_set, BitVec.toNat_inj]

theorem timer_tregWrite (s : State) (t e : Byte) (reg : TReg) (v m : Half) :
    (s.tregWrite t reg v m).timer e =
      if t = e ∧ t.toNat < s.timers.length then (s.timer e).write reg v m else s.timer e := by
  simp only [State.timer, tregWrite_timers, getD_modify, BitVec.toNat_inj]

/-- A slot that differs from the initial one exists. -/
theorem lt_of_ch_ne_initial {s : State} {c : Byte} (h : s.ch c ≠ Channel.initial) : c.toNat < s.channels.length := by
  by_contra hc
  exact h (by simp [State.ch, List.getElem?_eq_none (Nat.le_of_not_lt hc)])

theorem lt_of_identity {s : State} {c t : Byte} (h : (s.ch c).timerIdentity = some t) :
    c.toNat < s.channels.length :=
  lt_of_ch_ne_initial (fun e => by simp [e, Channel.initial] at h)

theorem lt_of_running {s : State} {c : Byte} (h : (s.ch c).runState = .running) : c.toNat < s.channels.length :=
  lt_of_ch_ne_initial (fun e => by simp [e, Channel.initial] at h)

/-- A timer whose counter runs exists. -/
theorem lt_of_cs_ne_zero {s : State} {t : Byte} (h : (s.timer t).cs ≠ 0) : t.toNat < s.timers.length := by
  by_contra hc
  refine h ?_
  have : s.timer t = TimerRegs.zero := by simp [State.timer, List.getElem?_eq_none (Nat.le_of_not_lt hc)]
  rw [this]; decide

/-! ### Masked writes -/

theorem mergeBits_getLsbD {n : Nat} (old v m : BitVec n) (i : Nat) (hi : i < n) :
    (mergeBits old v m).getLsbD i = if m.getLsbD i then v.getLsbD i else old.getLsbD i := by
  simp only [mergeBits, BitVec.getLsbD_or, BitVec.getLsbD_and, BitVec.getLsbD_not, hi, decide_true, Bool.true_and]
  cases m.getLsbD i <;> simp

theorem mergeBits_idem {n : Nat} (old v m : BitVec n) : mergeBits (mergeBits old v m) v m = mergeBits old v m := by
  apply BitVec.eq_of_getLsbD_eq
  intro i hi
  simp only [mergeBits_getLsbD _ _ _ i hi]
  split <;> rfl

/-- The registers after `do_stop`'s four writes (R126). -/
def TimerRegs.halted (r : TimerRegs) : TimerRegs :=
  { r with cra := r.cra &&& 0x3F, port := r.port &&& 0xFE, crb := r.crb &&& 0xF8, imr := r.imr &&& 0xFE, out := false }

/-- The registers after the writes of a GENERATE (R122); `enable` is what is set in `IMR`. -/
def TimerRegs.programmed (r : TimerRegs) (enable : Byte) (tm : Timing) : TimerRegs :=
  { r with
    cra := 0x41, crb := tm.selector.setWidth 8, imr := r.imr ||| enable
    ocr := BitVec.ofNat 16 tm.compareValue, out := false }

/-- The registers after the writes of an UPDATEFREQ (R127). -/
def TimerRegs.retimed (r : TimerRegs) (tm : Timing) : TimerRegs :=
  { r with ocr := BitVec.ofNat 16 tm.compareValue, crb := (r.crb &&& 0xF8) ||| tm.selector.setWidth 8 }

theorem mergeBits_clear (x v m keep : Byte) (hv : v = 0) (hk : ~~~m = keep) : mergeBits x v m = x &&& keep := by
  subst hv hk
  simp [mergeBits]

theorem mergeBits_all {n : Nat} (x v m : BitVec n) (hm : m = BitVec.allOnes n) : mergeBits x v m = v := by
  subst hm
  apply BitVec.eq_of_getLsbD_eq
  intro i hi
  rw [mergeBits_getLsbD _ _ _ i hi]
  simp [hi]

theorem mergeBits_set (x v : Byte) : mergeBits x v v = x ||| v := by
  apply BitVec.eq_of_getLsbD_eq
  intro i hi
  simp only [mergeBits_getLsbD _ _ _ i hi, BitVec.getLsbD_or]
  cases v.getLsbD i <;> simp

theorem pinAction_keep (x : Byte) : pinAction (x &&& 0x3F) = paDisconnected := by
  revert x; decide

theorem lowByte_setWidth (sel : BitVec 3) : lowByte (sel.setWidth 16) = sel.setWidth 8 := by
  revert sel; decide

theorem selector_in_mask (sel : BitVec 3) : sel.setWidth 8 &&& (0x07 : Byte) = sel.setWidth 8 := by
  revert sel; decide

theorem write_halt (r : TimerRegs) :
    (((r.write .cra 0x00 0xC0).write .port 0x00 0x01).write .crb 0x00 0x07).write .imr 0x00 0x01 = r.halted := by
  have h1 : mergeBits r.cra (lowByte 0x00) (lowByte 0xC0) = r.cra &&& 0x3F :=
    mergeBits_clear _ _ _ _ (by decide) (by decide)
  have h2 : mergeBits r.port (lowByte 0x00) (lowByte 0x01) = r.port &&& 0xFE :=
    mergeBits_clear _ _ _ _ (by decide) (by decide)
  have h3 : mergeBits r.crb (lowByte 0x00) (lowByte 0x07) = r.crb &&& 0xF8 :=
    mergeBits_clear _ _ _ _ (by decide) (by decide)
  have h4 : mergeBits r.imr (lowByte 0x00) (lowByte 0x01) = r.imr &&& 0xFE :=
    mergeBits_clear _ _ _ _ (by decide) (by decide)
  simp only [TimerRegs.write, TimerRegs.halted, h1, h2, h3, h4, pinAction_keep, if_true]

/-- The writes that leave the control registers programmed, without `IMR` and the clock select (R122 steps 1 to 4). -/
theorem write_program (r : TimerRegs) (cv : Half) :
    (((r.write .cra 0x00 0xFF).write .crb 0x00 0xFF).write .ocr cv 0xFFFF).write .cra 0x41 0xC1 =
      { r with cra := 0x41, crb := 0, ocr := cv, out := false } := by
  have h1 : mergeBits r.cra (lowByte 0x00) (lowByte 0xFF) = 0 := mergeBits_all _ _ _ (by decide)
  have h2 : mergeBits r.crb (lowByte 0x00) (lowByte 0xFF) = 0 := mergeBits_all _ _ _ (by decide)
  have h3 : mergeBits r.ocr cv 0xFFFF = cv := mergeBits_all _ _ _ (by decide)
  have h4 : mergeBits (0 : Byte) (lowByte 0x41) (lowByte 0xC1) = 0x41 := by decide
  have h5 : pinAction 0 = paDisconnected := by decide
  have h6 : pinAction 0x41 ≠ paDisconnected := by decide
  simp only [TimerRegs.write, h1, h2, h3, h4, h5, h6, if_true, if_false]

theorem write_selector (r : TimerRegs) (sel : BitVec 3) :
    r.write .crb (sel.setWidth 16) 0x07 = { r with crb := (r.crb &&& 0xF8) ||| sel.setWidth 8 } := by
  have hm : lowByte (0x07 : Half) = 0x07 := by decide
  have hk : ~~~(0x07 : Byte) = 0xF8 := by decide
  simp only [TimerRegs.write, mergeBits, lowByte_setWidth, hm, hk, selector_in_mask]

theorem write_enable (r : TimerRegs) : r.write .imr 0x01 0x01 = { r with imr := r.imr ||| 0x01 } := by
  have hm : lowByte (0x01 : Half) = 0x01 := by decide
  simp only [TimerRegs.write, hm, mergeBits_set]

theorem write_direction (r : TimerRegs) : r.write .ddr 0x01 0x01 = { r with ddr := r.ddr ||| 0x01 } := by
  have hm : lowByte (0x01 : Half) = 0x01 := by decide
  simp only [TimerRegs.write, hm, mergeBits_set]

theorem write_ocr (r : TimerRegs) (cv : Half) : r.write .ocr cv 0xFFFF = { r with ocr := cv } := by
  have h : mergeBits r.ocr cv 0xFFFF = cv := mergeBits_all _ _ _ (by decide)
  simp only [TimerRegs.write, h]

/-! ### The shared procedures in closed form -/

/-- The four writes of `do_stop` in the record (R126). -/
def haltWrites (t : Byte) : List Output :=
  [.tregWrite t .cra 0x00 0xC0, .tregWrite t .port 0x00 0x01, .tregWrite t .crb 0x00 0x07, .tregWrite t .imr 0x00 0x01]

theorem haltTimer_eq (s : State) (t : Byte) :
    s.haltTimer t = { s with timers := s.timers.modify t.toNat TimerRegs.halted, trace := s.trace ++ haltWrites t } := by
  have hf : ((fun r => TimerRegs.write r .imr 0x00 0x01) ∘ (fun r => TimerRegs.write r .crb 0x00 0x07) ∘
      (fun r => TimerRegs.write r .port 0x00 0x01) ∘ (fun r => TimerRegs.write r .cra 0x00 0xC0)) =
      TimerRegs.halted := funext write_halt
  simp only [State.haltTimer, State.tregWrite, List.modify_modify_eq, List.append_assoc, haltWrites,
    List.cons_append, List.nil_append, ← hf]

theorem doStop_invalid {s : State} {c : Byte} (h : (s.ch c).timerIdentity = none) :
    s.doStop c = s.updCh c (fun r => { r with runState := .idle, mode := .stopped }) := by
  simp only [State.doStop, h]

theorem doStop_valid {s : State} {c t : Byte} (h : (s.ch c).timerIdentity = some t) :
    s.doStop c = { s with
      channels := s.channels.modify c.toNat (fun r => { r with runState := .idle, mode := .stopped })
      timers := s.timers.modify t.toNat TimerRegs.halted
      trace := s.trace ++ haltWrites t } := by
  simp only [State.doStop, h, haltTimer_eq, State.updCh]

/-- `do_stop` on the channel file, whatever the binding (R126). -/
theorem doStop_channels (s : State) (c : Byte) :
    (s.doStop c).channels = s.channels.modify c.toNat (fun r => { r with runState := .idle, mode := .stopped }) := by
  cases h : (s.ch c).timerIdentity with
  | none => rw [doStop_invalid h]; rfl
  | some t => rw [doStop_valid h]

theorem doStop_frame (s : State) (c : Byte) :
    (s.doStop c).cfg = s.cfg ∧ (s.doStop c).registry = s.registry ∧ (s.doStop c).schedule = s.schedule := by
  cases h : (s.ch c).timerIdentity with
  | none => rw [doStop_invalid h]; exact ⟨rfl, rfl, rfl⟩
  | some t => rw [doStop_valid h]; exact ⟨rfl, rfl, rfl⟩

/-- What an event does to a channel it counts on and to the machine (R159). -/
def Counts (s : State) (c : Byte) : Prop :=
  (s.ch c).runState = .running ∧ (s.ch c).mode = .discrete ∧ 1 ≤ (s.ch c).pulseRemaining

/-- The decrement of the handler (R159). -/
def State.countDown (s : State) (c : Byte) : State :=
  s.updCh c (fun r => { r with pulseRemaining := r.pulseRemaining - 1 })

/-- The handler, by cases (R159): nothing, one count, or the last count and `do_stop`. -/
theorem handleInterrupt_cases (s : State) (c : Byte) :
    (¬ Counts s c ∧ s.handleInterrupt c = s) ∨
    (Counts s c ∧ (s.ch c).pulseRemaining ≠ 1 ∧ s.handleInterrupt c = s.countDown c) ∨
    (Counts s c ∧ (s.ch c).pulseRemaining = 1 ∧ s.handleInterrupt c = (s.countDown c).doStop c) := by
  by_cases hc : Counts s c
  · have hlt := lt_of_running hc.1
    have hrem : ((s.countDown c).ch c).pulseRemaining = (s.ch c).pulseRemaining - 1 := by
      simp [State.countDown, ch_updCh, hlt]
    have hzero : (s.ch c).pulseRemaining - 1 = 0 ↔ (s.ch c).pulseRemaining = 1 := by
      have := hc.2.2
      constructor <;> intro h <;> bv_omega
    have hif : s.handleInterrupt c = (if ((s.countDown c).ch c).pulseRemaining = 0
        then (s.countDown c).doStop c else s.countDown c) := if_pos hc
    by_cases h1 : (s.ch c).pulseRemaining = 1
    · exact Or.inr (Or.inr ⟨hc, h1, by rw [hif, hrem, if_pos (hzero.mpr h1)]⟩)
    · exact Or.inr (Or.inl ⟨hc, h1, by rw [hif, hrem, if_neg (fun h => h1 (hzero.mp h))]⟩)
  · exact Or.inl ⟨hc, if_neg hc⟩

/-- The output unit's flip of an event on timer `t` (R167 step 1). -/
def State.flipOut (s : State) (t : Byte) : State := { s with timers := s.timers.modify t.toNat TimerRegs.toggle }

theorem toggle_cmie (r : TimerRegs) : r.toggle.cmie = r.cmie := by
  unfold TimerRegs.toggle; split <;> rfl

theorem toggle_cs (r : TimerRegs) : r.toggle.cs = r.cs := by
  unfold TimerRegs.toggle; split <;> rfl

theorem timer_flipOut (s : State) (t e : Byte) :
    (s.flipOut t).timer e = if t = e ∧ t.toNat < s.timers.length then (s.timer e).toggle else s.timer e := by
  simp only [State.timer, State.flipOut, getD_modify, BitVec.toNat_inj]

/-- A compare match, by cases (R166, R167): not enabled, toggle only, or toggle and the owner's handler. -/
theorem compareMatch_cases (s : State) (t : Byte) :
    ((s.timer t).cs = 0 ∧ s.compareMatch t = s) ∨
    ((s.timer t).cs ≠ 0 ∧ ((s.timer t).cmie ≠ 1 ∨ s.owner t = none) ∧ s.compareMatch t = s.flipOut t) ∨
    (∃ c, (s.timer t).cs ≠ 0 ∧ (s.timer t).cmie = 1 ∧ s.owner t = some c ∧
      s.compareMatch t = (s.flipOut t).handleInterrupt c) := by
  by_cases hcs : (s.timer t).cs = 0
  · exact Or.inl ⟨hcs, by rw [State.compareMatch, if_pos hcs]⟩
  · have hlt := lt_of_cs_ne_zero hcs
    have hm : ((s.flipOut t).timer t).cmie = (s.timer t).cmie := by
      rw [timer_flipOut, if_pos ⟨rfl, hlt⟩, toggle_cmie]
    by_cases hc : (s.timer t).cmie = 1
    · have hd : s.compareMatch t = (s.flipOut t).dispatch t := by
        rw [State.compareMatch, if_neg hcs]
        exact if_pos (hm.trans hc)
      cases ho : s.owner t with
      | none =>
        refine Or.inr (Or.inl ⟨hcs, Or.inr rfl, ?_⟩)
        rw [hd, State.dispatch, show (s.flipOut t).owner t = none from ho]
      | some c =>
        refine Or.inr (Or.inr ⟨c, hcs, hc, rfl, ?_⟩)
        rw [hd, State.dispatch, show (s.flipOut t).owner t = some c from ho]
    · refine Or.inr (Or.inl ⟨hcs, Or.inl hc, ?_⟩)
      rw [State.compareMatch, if_neg hcs]
      exact if_neg (fun h => hc (hm.symm.trans h))

/-! ### The commands: everything one can do -/

/-- The state a successful GENERATE leaves, in closed form (R122). -/
theorem startRun_eq (s : State) (c t : Byte) (tm : Timing) (n : Word) :
    s.startRun c t .discrete tm n = { s with
      channels := s.channels.modify c.toNat (fun r =>
        { r with
          runState := .running, mode := .discrete, lastError := .none
          pulseTarget := togglesOf n, pulseRemaining := togglesOf n })
      timers := s.timers.modify t.toNat (fun r => r.programmed 0x01 tm)
      trace := s.trace ++
        [.tregWrite t .cra 0x00 0xFF, .tregWrite t .crb 0x00 0xFF,
         .tregWrite t .ocr (BitVec.ofNat 16 tm.compareValue) 0xFFFF, .tregWrite t .cra 0x41 0xC1,
         .tregWrite t .imr 0x01 0x01, .tregWrite t .crb (tm.selector.setWidth 16) 0x07] } ∧
    s.startRun c t .continuous tm n = { s with
      channels := s.channels.modify c.toNat (fun r =>
        { r with runState := .running, mode := .continuous, lastError := .none })
      timers := s.timers.modify t.toNat (fun r => r.programmed 0x00 tm)
      trace := s.trace ++
        [.tregWrite t .cra 0x00 0xFF, .tregWrite t .crb 0x00 0xFF,
         .tregWrite t .ocr (BitVec.ofNat 16 tm.compareValue) 0xFFFF, .tregWrite t .cra 0x41 0xC1,
         .tregWrite t .crb (tm.selector.setWidth 16) 0x07] } := by
  have hz : ∀ x : Byte, (0 : Byte) &&& 0xF8 ||| x = x := by intro x; simp
  have hd : ∀ r : TimerRegs, (((((r.write .cra 0x00 0xFF).write .crb 0x00 0xFF).write .ocr
      (BitVec.ofNat 16 tm.compareValue) 0xFFFF).write .cra 0x41 0xC1).write .imr 0x01 0x01).write .crb
        (tm.selector.setWidth 16) 0x07 = r.programmed 0x01 tm := by
    intro r
    simp only [write_program, write_enable, write_selector, TimerRegs.programmed, hz]
  have hc : ∀ r : TimerRegs, ((((r.write .cra 0x00 0xFF).write .crb 0x00 0xFF).write .ocr
      (BitVec.ofNat 16 tm.compareValue) 0xFFFF).write .cra 0x41 0xC1).write .crb
        (tm.selector.setWidth 16) 0x07 = r.programmed 0x00 tm := by
    intro r
    simp only [write_program, write_selector, TimerRegs.programmed, hz]
    simp
  constructor
  · simp only [State.startRun, State.armCount, State.programTimer, State.selectClock, State.updCh, State.tregWrite,
      List.modify_modify_eq, List.append_assoc, List.cons_append, List.nil_append, Function.comp_def, hd]
  · simp only [State.startRun, State.armCount, State.programTimer, State.selectClock, State.updCh, State.tregWrite,
      List.modify_modify_eq, List.append_assoc, List.cons_append, List.nil_append, Function.comp_def, hc]

/-- The state a successful UPDATEFREQ leaves, in closed form (R127). -/
theorem retime_eq (s : State) (c t : Byte) (tm : Timing) :
    s.retime c t tm = { s with
      channels := s.channels.modify c.toNat (fun r => { r with lastError := .none })
      timers := s.timers.modify t.toNat (fun r => r.retimed tm)
      trace := s.trace ++
        [.tregWrite t .ocr (BitVec.ofNat 16 tm.compareValue) 0xFFFF,
         .tregWrite t .crb (tm.selector.setWidth 16) 0x07] } := by
  simp only [State.retime, State.selectClock, State.updCh, State.tregWrite, List.modify_modify_eq, List.append_assoc,
    List.cons_append, List.nil_append, Function.comp_def, write_ocr, write_selector, TimerRegs.retimed]

/-- The state a successful CONSTRUCT leaves, in closed form (R90). -/
theorem bindTimer_eq (s : State) (c p t : Byte) (w : Width) :
    s.bindTimer c p t w = { s with
      channels := s.channels.modify c.toNat (fun r =>
        { r with constructed := true, pin := p, timerIdentity := some t, counterWidth := w, lastError := .none })
      registry := s.registry.set t.toNat (some c)
      timers := s.timers.modify t.toNat (fun r => { r with ddr := r.ddr ||| 0x01 })
      trace := s.trace ++ [.tregWrite t .ddr 0x01 0x01] } := by
  simp only [State.bindTimer, State.updCh, State.setOwner, State.tregWrite, List.modify_modify_eq, Function.comp_def,
    write_direction]

/-- The value checks of R74 on a decoded command: (c) the slot does not exist, (e) it is constructed, (d) the width
code names no width. -/
def IllegalOperands (s : State) (i : Instr) : Prop :=
  (∃ c, i.slot = some c ∧ s.hasSlot c = false) ∨
  (∃ c p, i = .construct c p ∧ (s.ch c).constructed = true) ∨
  (∃ w f, i = .solve w f ∧ requestedWidth w = none)

/-- Everything a command can do (its guard and its effect), by command. -/
inductive Effect (s : State) : Instr → State → Prop where
  | illegal (i : Instr) (h : IllegalOperands s i) : Effect s i s.illegal
  | isrunning (c : Byte) (slot : s.hasSlot c = true) :
      Effect s (.isrunning c) (s.respond 0 (if (s.ch c).runState = .running then 1 else 0) 0)
  | isvalid (c : Byte) (slot : s.hasSlot c = true) :
      Effect s (.isvalid c) (s.respond 0 (if (s.ch c).timerIdentity ≠ none then 1 else 0) 0)
  | geterror (c : Byte) (slot : s.hasSlot c = true) :
      Effect s (.geterror c) (s.respond 0 (s.ch c).lastError.code 0)
  | solveFails (wcode : Byte) (f : Word) (w : Width) (e : ErrorKind) (width : requestedWidth wcode = some w)
      (h : solveVerdict s.cfg w f = .error e) : Effect s (.solve wcode f) (s.respond e.code 0 0)
  | solves (wcode : Byte) (f : Word) (w : Width) (tm : Timing) (width : requestedWidth wcode = some w)
      (h : solveVerdict s.cfg w f = .ok tm) :
      Effect s (.solve wcode f) (s.respond 0 (tm.selector.setWidth 8) (BitVec.ofNat 16 tm.compareValue))
  | bindFails (c p : Byte) (slot : s.hasSlot c = true) (fresh : (s.ch c).constructed = false)
      (h : lookupPin s.cfg p = none) : Effect s (.construct c p) ((s.bindInvalid c p).fail c .invalidPin)
  | binds (c p t : Byte) (w : Width) (slot : s.hasSlot c = true) (fresh : (s.ch c).constructed = false)
      (h : lookupPin s.cfg p = some (t, w)) : Effect s (.construct c p) ((s.bindTimer c p t w).respond 0 1 0)
  | generateFails (c m : Byte) (f n : Word) (e : ErrorKind) (slot : s.hasSlot c = true)
      (h : generateVerdict s.cfg (s.ch c) m f n = .error e) : Effect s (.generate c m f n) (s.fail c e)
  | starts (c m : Byte) (f n : Word) (t : Byte) (md : Mode) (tm : Timing) (slot : s.hasSlot c = true)
      (h : generateVerdict s.cfg (s.ch c) m f n = .ok (t, md, tm)) :
      Effect s (.generate c m f n) ((s.startRun c t md tm n).respond 0 1 0)
  | updateFails (c : Byte) (f : Word) (e : ErrorKind) (slot : s.hasSlot c = true)
      (h : updateVerdict s.cfg (s.ch c) f = .error e) : Effect s (.updatefreq c f) (s.fail c e)
  | retimes (c : Byte) (f : Word) (t : Byte) (tm : Timing) (slot : s.hasSlot c = true)
      (h : updateVerdict s.cfg (s.ch c) f = .ok (t, tm)) :
      Effect s (.updatefreq c f) ((s.retime c t tm).respond 0 1 0)
  | stops (c : Byte) (slot : s.hasSlot c = true) : Effect s (.stop c) ((s.doStop c).respond 0 0 0)

/-- A command answers a next state, and that state is one of its effects. -/
theorem exec_effect (i : Instr) (s : State) : ∃ s', exec i s = .next s' ∧ Effect s i s' := by
  have hslot : ∀ c, (!s.hasSlot c) = true → s.hasSlot c = false := fun c h => by simpa using h
  have hslot' : ∀ c, ¬ (!s.hasSlot c) = true → s.hasSlot c = true := fun c h => by simpa using h
  cases i with
  | construct c p =>
    simp only [exec, execConstruct]
    split
    · rename_i h
      rcases Bool.or_eq_true _ _ ▸ h with h | h
      · exact ⟨_, rfl, .illegal _ (Or.inl ⟨c, rfl, hslot c h⟩)⟩
      · exact ⟨_, rfl, .illegal _ (Or.inr (Or.inl ⟨c, p, rfl, h⟩))⟩
    · rename_i h
      simp only [Bool.or_eq_true, Bool.not_eq_true', not_or, Bool.not_eq_false, Bool.not_eq_true] at h
      split
      · rename_i hl; exact ⟨_, rfl, .bindFails c p h.1 h.2 hl⟩
      · rename_i t w hl; exact ⟨_, rfl, .binds c p t w h.1 h.2 hl⟩
  | generate c m f n =>
    simp only [exec, execGenerate]
    split
    · rename_i h; exact ⟨_, rfl, .illegal _ (Or.inl ⟨c, rfl, hslot c h⟩)⟩
    · rename_i h
      split
      · rename_i e hv; exact ⟨_, rfl, .generateFails c m f n e (hslot' c h) hv⟩
      · rename_i t md tm hv; exact ⟨_, rfl, .starts c m f n t md tm (hslot' c h) hv⟩
  | updatefreq c f =>
    simp only [exec, execUpdatefreq]
    split
    · rename_i h; exact ⟨_, rfl, .illegal _ (Or.inl ⟨c, rfl, hslot c h⟩)⟩
    · rename_i h
      split
      · rename_i e hv; exact ⟨_, rfl, .updateFails c f e (hslot' c h) hv⟩
      · rename_i t tm hv; exact ⟨_, rfl, .retimes c f t tm (hslot' c h) hv⟩
  | stop c =>
    simp only [exec, execStop]
    split
    · rename_i h; exact ⟨_, rfl, .illegal _ (Or.inl ⟨c, rfl, hslot c h⟩)⟩
    · rename_i h; exact ⟨_, rfl, .stops c (hslot' c h)⟩
  | isrunning c =>
    simp only [exec, execIsrunning]
    split
    · rename_i h; exact ⟨_, rfl, .illegal _ (Or.inl ⟨c, rfl, hslot c h⟩)⟩
    · rename_i h; exact ⟨_, rfl, .isrunning c (hslot' c h)⟩
  | isvalid c =>
    simp only [exec, execIsvalid]
    split
    · rename_i h; exact ⟨_, rfl, .illegal _ (Or.inl ⟨c, rfl, hslot c h⟩)⟩
    · rename_i h; exact ⟨_, rfl, .isvalid c (hslot' c h)⟩
  | geterror c =>
    simp only [exec, execGeterror]
    split
    · rename_i h; exact ⟨_, rfl, .illegal _ (Or.inl ⟨c, rfl, hslot c h⟩)⟩
    · rename_i h; exact ⟨_, rfl, .geterror c (hslot' c h)⟩
  | solve w f =>
    simp only [exec, execSolve]
    split
    · rename_i h; exact ⟨_, rfl, .illegal _ (Or.inr (Or.inr ⟨w, f, rfl, h⟩))⟩
    · rename_i wd hw
      split
      · rename_i e hv; exact ⟨_, rfl, .solveFails w f wd e hw hv⟩
      · rename_i tm hv; exact ⟨_, rfl, .solves w f wd tm hw hv⟩

theorem effect_of_exec {i : Instr} {s s' : State} (h : exec i s = .next s') : Effect s i s' := by
  obtain ⟨s'', h1, h2⟩ := exec_effect i s
  rw [h] at h1
  cases h1
  exact h2

/-- What a GENERATE that passes its checks has established (R121). -/
theorem generateVerdict_ok {cfg : Config} {r : Channel} {m : Byte} {f n : Word} {t : Byte} {md : Mode} {tm : Timing}
    (h : generateVerdict cfg r m f n = .ok (t, md, tm)) :
    r.timerIdentity = some t ∧ r.runState ≠ .running ∧ f ≠ 0 ∧
      ((m = 0x01 ∧ md = .discrete ∧ n ≠ 0) ∨ (m = 0x02 ∧ md = .continuous)) ∧
      computeTiming cfg f.toNat r.counterWidth = some tm := by
  unfold generateVerdict requestedMode at h
  split at h
  · cases h
  · rename_i t' ht
    split at h
    · cases h
    · rename_i hrun
      split at h
      · cases h
      · rename_i hf
        split at h
        · cases h
        · rename_i md' hmd
          split at h
          · cases h
          · rename_i hn
            split at h
            · cases h
            · rename_i tm' htm
              simp only [Except.ok.injEq, Prod.mk.injEq] at h
              obtain ⟨rfl, rfl, rfl⟩ := h
              refine ⟨ht, hrun, hf, ?_, htm⟩
              split at hmd
              · rename_i hm
                cases hmd
                exact Or.inl ⟨hm, rfl, fun h0 => hn ⟨rfl, h0⟩⟩
              · split at hmd
                · rename_i hm
                  cases hmd
                  exact Or.inr ⟨hm, rfl⟩
                · cases hmd

/-- What an UPDATEFREQ that passes its checks has established (R127). -/
theorem updateVerdict_ok {cfg : Config} {r : Channel} {f : Word} {t : Byte} {tm : Timing}
    (h : updateVerdict cfg r f = .ok (t, tm)) :
    r.timerIdentity = some t ∧ r.runState = .running ∧ f ≠ 0 ∧
      computeTiming cfg f.toNat r.counterWidth = some tm := by
  unfold updateVerdict at h
  split at h
  · cases h
  · rename_i t' ht
    split at h
    · cases h
    · rename_i hrun
      split at h
      · cases h
      · rename_i hf
        split at h
        · cases h
        · rename_i tm' htm
          simp only [Except.ok.injEq, Prod.mk.injEq] at h
          obtain ⟨rfl, rfl⟩ := h
          exact ⟨ht, by simpa using hrun, hf, htm⟩

/-! ### The step: everything it can do -/

/-- A step, by stimulus. -/
theorem step_cases {s s' : State} (h : step s = .next s') :
    (s.schedule = [] ∧ s' = s) ∨
    (∃ w rest, s.schedule = .command w :: rest ∧ (∃ e, decode w = .error e) ∧
      s' = ({ s with schedule := rest } : State).illegal) ∨
    (∃ w rest i, s.schedule = .command w :: rest ∧ decode w = .ok i ∧ Effect { s with schedule := rest } i s') ∨
    (∃ t rest, s.schedule = .compareMatch t :: rest ∧ s' = ({ s with schedule := rest } : State).compareMatch t) ∨
    (∃ p rest, s.schedule = .rst p :: rest ∧ s' = ({ s with schedule := rest } : State).restart p) := by
  unfold step at h
  split at h
  · rename_i hs
    exact Or.inl ⟨hs, by cases h; rfl⟩
  · rename_i x rest hs
    cases x with
    | command w =>
      simp only [serve, runCommand] at h
      split at h
      · rename_i e he
        exact Or.inr (Or.inl ⟨w, rest, hs, ⟨e, he⟩, by cases h; rfl⟩)
      · rename_i i hi
        exact Or.inr (Or.inr (Or.inl ⟨w, rest, i, hs, hi, effect_of_exec h⟩))
    | compareMatch t => exact Or.inr (Or.inr (Or.inr (Or.inl ⟨t, rest, hs, by cases h; rfl⟩)))
    | rst p => exact Or.inr (Or.inr (Or.inr (Or.inr ⟨p, rest, hs, by cases h; rfl⟩)))

end Sys2Proof.Machine
end

