-- ==== Sys2Proof/Laws/Effects.lean ====
section
/-! SUPPORT. What each shared procedure and each effect does to one channel, and what it leaves alone: the channel
file read after it, and the frames a command, the handler and an event have. -/

namespace Sys2Proof.Machine

/-! ### The channel file after a shared procedure -/

theorem doStop_ch (s : State) (c e : Byte) : (s.doStop c).ch e =
    if c = e ∧ c.toNat < s.channels.length then { s.ch e with runState := .idle, mode := .stopped } else s.ch e := by
  simp only [State.ch, doStop_channels, getD_modify, BitVec.toNat_inj]

theorem countDown_ch (s : State) (c e : Byte) : (s.countDown c).ch e =
    if c = e ∧ c.toNat < s.channels.length then { s.ch e with pulseRemaining := (s.ch e).pulseRemaining - 1 }
    else s.ch e := by
  rw [State.countDown, ch_updCh]

theorem startRun_discrete_ch (s : State) (c t e : Byte) (tm : Timing) (n : Word) :
    (s.startRun c t .discrete tm n).ch e =
      if c = e ∧ c.toNat < s.channels.length then
        { s.ch e with
          runState := .running, mode := .discrete, lastError := .none
          pulseTarget := togglesOf n, pulseRemaining := togglesOf n }
      else s.ch e := by
  simp only [(startRun_eq s c t tm n).1, State.ch, getD_modify, BitVec.toNat_inj]

theorem startRun_continuous_ch (s : State) (c t e : Byte) (tm : Timing) (n : Word) :
    (s.startRun c t .continuous tm n).ch e =
      if c = e ∧ c.toNat < s.channels.length then
        { s.ch e with runState := .running, mode := .continuous, lastError := .none }
      else s.ch e := by
  simp only [(startRun_eq s c t tm n).2, State.ch, getD_modify, BitVec.toNat_inj]

theorem retime_ch (s : State) (c t e : Byte) (tm : Timing) : (s.retime c t tm).ch e =
    if c = e ∧ c.toNat < s.channels.length then { s.ch e with lastError := .none } else s.ch e := by
  simp only [retime_eq, State.ch, getD_modify, BitVec.toNat_inj]

theorem bindTimer_ch (s : State) (c p t e : Byte) (w : Width) : (s.bindTimer c p t w).ch e =
    if c = e ∧ c.toNat < s.channels.length then
      { s.ch e with
        constructed := true, pin := p, timerIdentity := some t, counterWidth := w, lastError := .none }
    else s.ch e := by
  simp only [bindTimer_eq, State.ch, getD_modify, BitVec.toNat_inj]

theorem fail_ch (s : State) (c e : Byte) (k : ErrorKind) : (s.fail c k).ch e =
    if c = e ∧ c.toNat < s.channels.length then { s.ch e with lastError := k } else s.ch e := by
  rw [State.fail, ch_respond, ch_updCh]

theorem bindInvalid_ch (s : State) (c p e : Byte) : (s.bindInvalid c p).ch e =
    if c = e ∧ c.toNat < s.channels.length then { s.ch e with constructed := true, pin := p, timerIdentity := none }
    else s.ch e := by
  rw [State.bindInvalid, ch_updCh]

/-! ### The state after reset -/

theorem launch_ch (cfg : Config) (p : List TimerRegs) (c : Byte) : (State.launch cfg p).ch c = Channel.initial := by
  simp only [State.ch, State.launch, List.getD_eq_getElem?_getD, List.getElem?_replicate]
  split <;> rfl

theorem launch_owner (cfg : Config) (p : List TimerRegs) (t : Byte) : (State.launch cfg p).owner t = none := by
  simp only [State.owner, State.launch, List.getD_eq_getElem?_getD, List.getElem?_replicate]
  split <;> rfl

theorem launch_timer (cfg : Config) (p : List TimerRegs) (t : Byte) : (State.launch cfg p).timer t =
    if t.toNat < cfg.nTimer then p.getD t.toNat TimerRegs.zero else TimerRegs.zero := by
  simp only [State.timer, State.launch, List.getD_eq_getElem?_getD, List.getElem?_map]
  by_cases h : t.toNat < cfg.nTimer <;> simp [h]

/-- Under the launch premise every timer reads 0 (R181). -/
theorem launch_premise_timer {cfg : Config} {p : List TimerRegs} (hp : LaunchPremise p) (t : Byte) :
    (State.launch cfg p).timer t = TimerRegs.zero := by
  rw [launch_timer]
  split
  · rw [List.getD_eq_getElem?_getD]
    cases h : p[t.toNat]? with
    | none => rfl
    | some r => exact hp r (List.mem_of_getElem? h)
  · rfl

/-! ### Frames -/

/-- The handler of `c` leaves every other channel (R159). -/
theorem handleInterrupt_others (s : State) {c e : Byte} (h : e ≠ c) : (s.handleInterrupt c).ch e = s.ch e := by
  have hne : ∀ n : Nat, ¬ (c = e ∧ c.toNat < n) := fun _ hc => h hc.1.symm
  rcases handleInterrupt_cases s c with ⟨_, hk⟩ | ⟨_, _, hk⟩ | ⟨_, _, hk⟩ <;> rw [hk]
  · rw [countDown_ch, if_neg (hne _)]
  · rw [doStop_ch, if_neg (hne _), countDown_ch, if_neg (hne _)]

theorem handleInterrupt_frame (s : State) (c : Byte) : (s.handleInterrupt c).cfg = s.cfg ∧
    (s.handleInterrupt c).schedule = s.schedule ∧ (s.handleInterrupt c).registry = s.registry := by
  rcases handleInterrupt_cases s c with ⟨_, hk⟩ | ⟨_, _, hk⟩ | ⟨_, _, hk⟩ <;> rw [hk]
  · exact ⟨rfl, rfl, rfl⟩
  · exact ⟨rfl, rfl, rfl⟩
  · obtain ⟨h1, h2, h3⟩ := doStop_frame (s.countDown c) c
    exact ⟨h1, h3, h2⟩

theorem compareMatch_frame (s : State) (t : Byte) : (s.compareMatch t).cfg = s.cfg ∧
    (s.compareMatch t).schedule = s.schedule ∧ (s.compareMatch t).registry = s.registry := by
  rcases compareMatch_cases s t with ⟨_, h⟩ | ⟨_, _, h⟩ | ⟨c, _, _, _, h⟩ <;> rw [h]
  · exact ⟨rfl, rfl, rfl⟩
  · exact ⟨rfl, rfl, rfl⟩
  · exact handleInterrupt_frame (s.flipOut t) c

/-- An event never writes a binding or an error (R92, R130): it keeps all but the count and the run state. -/
theorem compareMatch_keeps (s : State) (t e : Byte) :
    ((s.compareMatch t).ch e).constructed = (s.ch e).constructed ∧ ((s.compareMatch t).ch e).pin = (s.ch e).pin ∧
    ((s.compareMatch t).ch e).timerIdentity = (s.ch e).timerIdentity ∧
    ((s.compareMatch t).ch e).counterWidth = (s.ch e).counterWidth ∧
    ((s.compareMatch t).ch e).pulseTarget = (s.ch e).pulseTarget ∧
    ((s.compareMatch t).ch e).lastError = (s.ch e).lastError := by
  rcases compareMatch_cases s t with ⟨_, h⟩ | ⟨_, _, h⟩ | ⟨c, _, _, _, h⟩ <;> rw [h]
  · exact ⟨rfl, rfl, rfl, rfl, rfl, rfl⟩
  · exact ⟨rfl, rfl, rfl, rfl, rfl, rfl⟩
  · rcases handleInterrupt_cases (s.flipOut t) c with ⟨_, hk⟩ | ⟨_, _, hk⟩ | ⟨_, _, hk⟩ <;> rw [hk]
    · exact ⟨rfl, rfl, rfl, rfl, rfl, rfl⟩
    · rw [countDown_ch]
      split <;> exact ⟨rfl, rfl, rfl, rfl, rfl, rfl⟩
    · rw [doStop_ch, countDown_ch]
      split <;> split <;> exact ⟨rfl, rfl, rfl, rfl, rfl, rfl⟩

/-- A command keeps the configuration and the stimuli still to come. -/
theorem effect_frame {s s' : State} {i : Instr} (h : Effect s i s') : s'.cfg = s.cfg ∧ s'.schedule = s.schedule := by
  cases h with
  | illegal | isrunning | isvalid | geterror | solveFails | solves | bindFails | generateFails | updateFails =>
    exact ⟨rfl, rfl⟩
  | binds c p t w => rw [bindTimer_eq]; exact ⟨rfl, rfl⟩
  | starts c m f n t md tm slot h =>
    obtain ⟨_, _, _, hm, _⟩ := generateVerdict_ok h
    rcases hm with ⟨_, rfl, _⟩ | ⟨_, rfl⟩
    · rw [(startRun_eq s c t tm n).1]; exact ⟨rfl, rfl⟩
    · rw [(startRun_eq s c t tm n).2]; exact ⟨rfl, rfl⟩
  | retimes c f t tm => rw [retime_eq]; exact ⟨rfl, rfl⟩
  | stops c =>
    obtain ⟨h1, _, h3⟩ := doStop_frame s c
    exact ⟨h1, h3⟩

/-- A command leaves every slot but the one it names. -/
theorem effect_others {s s' : State} {i : Instr} (h : Effect s i s') {d : Byte} (hd : i.slot ≠ some d) :
    s'.ch d = s.ch d := by
  have hne : ∀ {c : Byte} (n : Nat), some c ≠ some d → ¬ (c = d ∧ c.toNat < n) := fun _ hc h => hc (congrArg some h.1)
  cases h with
  | illegal | isrunning | isvalid | geterror | solveFails | solves => rfl
  | bindFails c p => rw [fail_ch, if_neg (hne _ hd), bindInvalid_ch, if_neg (hne _ hd)]
  | binds c p t w => rw [ch_respond, bindTimer_ch, if_neg (hne _ hd)]
  | generateFails c => rw [fail_ch, if_neg (hne _ hd)]
  | updateFails c => rw [fail_ch, if_neg (hne _ hd)]
  | starts c m f n t md tm slot h =>
    obtain ⟨_, _, _, hm, _⟩ := generateVerdict_ok h
    rcases hm with ⟨_, rfl, _⟩ | ⟨_, rfl⟩
    · rw [ch_respond, startRun_discrete_ch, if_neg (hne _ hd)]
    · rw [ch_respond, startRun_continuous_ch, if_neg (hne _ hd)]
  | retimes c f t tm => rw [ch_respond, retime_ch, if_neg (hne _ hd)]
  | stops c => rw [ch_respond, doStop_ch, if_neg (hne _ hd)]

/-! ### The registers after a shared procedure -/

/-- `do_stop`'s writes leave the timer quiet (R126, I2 of R39). -/
theorem halted_quiet (r : TimerRegs) : r.halted.Quiet := by
  have hcs : ∀ x : Byte, (x &&& 0xF8).extractLsb' 0 3 = 0 := by decide
  have hbit : ∀ x : Byte, (x &&& 0xFE).extractLsb' 0 1 = 0 := by decide
  exact ⟨pinAction_keep _, hcs _, hbit _, hbit _, rfl⟩

theorem toggle_of_connected {r : TimerRegs} (h : r.pa = paToggleOnMatch) : r.toggle = { r with out := !r.out } := if_pos h

theorem toggle_direction (r : TimerRegs) : r.toggle.direction = r.direction := by
  unfold TimerRegs.toggle
  split <;> rfl

/-- The clock select after the selector is written (R31). -/
theorem selector_cs (sel : BitVec 3) : (sel.setWidth 8 : Byte).extractLsb' 0 3 = sel := by
  revert sel; decide

/-- A pin of the table is on a timer that exists (R9). -/
theorem lookupPin_lt {cfg : Config} (hc : cfg.Ok) {p t : Byte} {w : Width} (h : lookupPin cfg p = some (t, w)) :
    t.toNat < cfg.nTimer := by
  have key : ∀ l : List PinRow, (∀ r ∈ l, r.timer.toNat < cfg.nTimer) → findPin p l = some (t, w) →
      t.toNat < cfg.nTimer := by
    intro l
    induction l with
    | nil => intro _ h; cases h
    | cons a l ih =>
      intro hl h
      unfold findPin at h
      split at h
      · cases h
        exact hl a (by simp)
      · exact ih (fun r hr => hl r (by simp [hr])) h
  exact key _ hc.2.2.2.1.1 h

end Sys2Proof.Machine
end

