-- ==== Sys2Proof/Laws/Encoding.lean ====
section
/-! SUPPORT. The command word and its fields (R70): each field of a packed word is the one packed, and a word is the
pack of its fields; when the must-be-zero check passes (R74 b). -/

namespace Sys2Proof

theorem opField_pack (op ch arg : Byte) (freq count : Word) : opField (pack op ch arg freq count) = op := by
  apply BitVec.eq_of_getLsbD_eq
  intro i hi
  simp only [opField, pack, BitVec.getLsbD_extractLsb', BitVec.getLsbD_append]
  simp [hi, show ¬ (80 + i < 32) by omega, show ¬ (80 + i - 32 < 32) by omega, show ¬ (80 + i - 32 - 32 < 8) by omega, show ¬ (80 + i - 32 - 32 - 8 < 8) by omega, show 80 + i - 32 - 32 - 8 - 8 = i by omega]

theorem chField_pack (op ch arg : Byte) (freq count : Word) : chField (pack op ch arg freq count) = ch := by
  apply BitVec.eq_of_getLsbD_eq
  intro i hi
  simp only [chField, pack, BitVec.getLsbD_extractLsb', BitVec.getLsbD_append]
  simp [hi, show ¬ (72 + i < 32) by omega, show ¬ (72 + i - 32 < 32) by omega, show ¬ (72 + i - 32 - 32 < 8) by omega, show 72 + i - 32 - 32 - 8 = i by omega]

theorem argField_pack (op ch arg : Byte) (freq count : Word) : argField (pack op ch arg freq count) = arg := by
  apply BitVec.eq_of_getLsbD_eq
  intro i hi
  simp only [argField, pack, BitVec.getLsbD_extractLsb', BitVec.getLsbD_append]
  simp [hi, show ¬ (64 + i < 32) by omega, show ¬ (64 + i - 32 < 32) by omega, show 64 + i - 32 - 32 = i by omega]

theorem freqField_pack (op ch arg : Byte) (freq count : Word) : freqField (pack op ch arg freq count) = freq := by
  apply BitVec.eq_of_getLsbD_eq
  intro i hi
  simp only [freqField, pack, BitVec.getLsbD_extractLsb', BitVec.getLsbD_append]
  simp [hi, show ¬ (32 + i < 32) by omega, show 32 + i - 32 = i by omega]

theorem countField_pack (op ch arg : Byte) (freq count : Word) : countField (pack op ch arg freq count) = count := by
  apply BitVec.eq_of_getLsbD_eq
  intro i hi
  simp only [countField, pack, BitVec.getLsbD_extractLsb', BitVec.getLsbD_append]
  simp [hi]

theorem pack_fields (w : CommandWord) :
    pack (opField w) (chField w) (argField w) (freqField w) (countField w) = w := by
  apply BitVec.eq_of_getLsbD_eq
  intro i hi
  simp only [pack, opField, chField, argField, freqField, countField, BitVec.getLsbD_append, BitVec.getLsbD_extractLsb']
  by_cases h1 : i < 32
  · simp [h1]
  · by_cases h2 : i - 32 < 32
    · simp [h1, h2, show 32 + (i - 32) = i by omega]
    · by_cases h3 : i - 32 - 32 < 8
      · simp [h1, h2, h3, show 64 + (i - 32 - 32) = i by omega]
      · by_cases h4 : i - 32 - 32 - 8 < 8
        · simp [h1, h2, h3, h4, show 72 + (i - 32 - 32 - 8) = i by omega]
        · simp [h1, h2, h3, h4, show i - 32 - 32 - 8 - 8 < 8 by omega, show 80 + (i - 32 - 32 - 8 - 8) = i by omega]

/-- A mask over a packed word is a mask over each field (R73). -/
theorem pack_and (op ch arg op' ch' arg' : Byte) (freq count freq' count' : Word) :
    pack op ch arg freq count &&& pack op' ch' arg' freq' count' =
      pack (op &&& op') (ch &&& ch') (arg &&& arg') (freq &&& freq') (count &&& count') := by
  apply BitVec.eq_of_getLsbD_eq
  intro i hi
  simp only [pack, BitVec.getLsbD_and, BitVec.getLsbD_append]
  split_ifs <;> rfl

/-- A masked word is a packed word exactly when each masked field is (R73). -/
theorem pack_inj {op ch arg op' ch' arg' : Byte} {freq count freq' count' : Word} :
    pack op ch arg freq count = pack op' ch' arg' freq' count' ↔
      op = op' ∧ ch = ch' ∧ arg = arg' ∧ freq = freq' ∧ count = count' := by
  constructor
  · intro h
    refine ⟨?_, ?_, ?_, ?_, ?_⟩
    · simpa only [opField_pack] using congrArg opField h
    · simpa only [chField_pack] using congrArg chField h
    · simpa only [argField_pack] using congrArg argField h
    · simpa only [freqField_pack] using congrArg freqField h
    · simpa only [countField_pack] using congrArg countField h
  · rintro ⟨rfl, rfl, rfl, rfl, rfl⟩; rfl

theorem firstStray_eq_none {fields : List (CommandField × Bool)} :
    firstStray fields = none ↔ ∀ p ∈ fields, p.2 = true := by
  induction fields with
  | nil => simp [firstStray]
  | cons p rest ih =>
    obtain ⟨f, z⟩ := p
    cases z <;> simp [firstStray, ih]

theorem requireZero_ok {fields : List (CommandField × Bool)} {i j : Instr} :
    requireZero fields i = .ok j ↔ (∀ p ∈ fields, p.2 = true) ∧ i = j := by
  rw [← firstStray_eq_none]
  unfold requireZero
  cases firstStray fields <;> simp

end Sys2Proof
end

