-- ==== Sys2Proof/Laws/PerInstr.lean ====
section
/-! SUPPORT. The per-command family Spelling: the encoding of a command has the spelling of its own row of the opcode
table, `w and mask = match` (R73), one lemma per constructor. -/

namespace Sys2Proof.Laws.Spelling

/-- The row of the opcode table that carries a command's mnemonic spells its encoding (R73). -/
def Statement (i : Instr) : Prop :=
  ∃ r ∈ opcodeTable, r.mnemonic = i.mnemonic ∧ r.spells (encode i) = true

theorem spells_of_fields {r : OpcodeRow} {op ch arg mop mch marg pop pch parg : Byte}
    {freq count mfreq mcount pfreq pcount : Word} (hm : r.mask = pack mop mch marg mfreq mcount)
    (hp : r.pattern = pack pop pch parg pfreq pcount)
    (h : op &&& mop = pop ∧ ch &&& mch = pch ∧ arg &&& marg = parg ∧ freq &&& mfreq = pfreq ∧
      count &&& mcount = pcount) : r.spells (pack op ch arg freq count) = true := by
  rw [OpcodeRow.spells, hm, hp, pack_and, beq_iff_eq, pack_inj]
  exact h

theorem construct (ch pin : Byte) : Statement (.construct ch pin) :=
  ⟨⟨"CONSTRUCT", 0x0100000000000000000000, 0xFF0000FFFFFFFFFFFFFFFF⟩, by simp [opcodeTable], rfl,
    spells_of_fields (mop := 0xFF) (mch := 0) (marg := 0) (mfreq := 0xFFFFFFFF) (mcount := 0xFFFFFFFF)
      (pop := 0x01) (pch := 0) (parg := 0) (pfreq := 0) (pcount := 0) (by decide) (by decide) (by simp)⟩

theorem generate (ch mode : Byte) (freq count : Word) : Statement (.generate ch mode freq count) :=
  ⟨⟨"GENERATE", 0x0200000000000000000000, 0xFF00000000000000000000⟩, by simp [opcodeTable], rfl,
    spells_of_fields (mop := 0xFF) (mch := 0) (marg := 0) (mfreq := 0) (mcount := 0)
      (pop := 0x02) (pch := 0) (parg := 0) (pfreq := 0) (pcount := 0) (by decide) (by decide) (by simp)⟩

theorem updatefreq (ch : Byte) (freq : Word) : Statement (.updatefreq ch freq) :=
  ⟨⟨"UPDATEFREQ", 0x0300000000000000000000, 0xFF00FF00000000FFFFFFFF⟩, by simp [opcodeTable], rfl,
    spells_of_fields (mop := 0xFF) (mch := 0) (marg := 0xFF) (mfreq := 0) (mcount := 0xFFFFFFFF)
      (pop := 0x03) (pch := 0) (parg := 0) (pfreq := 0) (pcount := 0) (by decide) (by decide) (by simp)⟩

theorem stop (ch : Byte) : Statement (.stop ch) :=
  ⟨⟨"STOP", 0x0400000000000000000000, 0xFF00FFFFFFFFFFFFFFFFFF⟩, by simp [opcodeTable], rfl,
    spells_of_fields (mop := 0xFF) (mch := 0) (marg := 0xFF) (mfreq := 0xFFFFFFFF) (mcount := 0xFFFFFFFF)
      (pop := 0x04) (pch := 0) (parg := 0) (pfreq := 0) (pcount := 0) (by decide) (by decide) (by simp)⟩

theorem isrunning (ch : Byte) : Statement (.isrunning ch) :=
  ⟨⟨"ISRUNNING", 0x0500000000000000000000, 0xFF00FFFFFFFFFFFFFFFFFF⟩, by simp [opcodeTable], rfl,
    spells_of_fields (mop := 0xFF) (mch := 0) (marg := 0xFF) (mfreq := 0xFFFFFFFF) (mcount := 0xFFFFFFFF)
      (pop := 0x05) (pch := 0) (parg := 0) (pfreq := 0) (pcount := 0) (by decide) (by decide) (by simp)⟩

theorem isvalid (ch : Byte) : Statement (.isvalid ch) :=
  ⟨⟨"ISVALID", 0x0600000000000000000000, 0xFF00FFFFFFFFFFFFFFFFFF⟩, by simp [opcodeTable], rfl,
    spells_of_fields (mop := 0xFF) (mch := 0) (marg := 0xFF) (mfreq := 0xFFFFFFFF) (mcount := 0xFFFFFFFF)
      (pop := 0x06) (pch := 0) (parg := 0) (pfreq := 0) (pcount := 0) (by decide) (by decide) (by simp)⟩

theorem geterror (ch : Byte) : Statement (.geterror ch) :=
  ⟨⟨"GETERROR", 0x0700000000000000000000, 0xFF00FFFFFFFFFFFFFFFFFF⟩, by simp [opcodeTable], rfl,
    spells_of_fields (mop := 0xFF) (mch := 0) (marg := 0xFF) (mfreq := 0xFFFFFFFF) (mcount := 0xFFFFFFFF)
      (pop := 0x07) (pch := 0) (parg := 0) (pfreq := 0) (pcount := 0) (by decide) (by decide) (by simp)⟩

theorem solve (wcode : Byte) (freq : Word) : Statement (.solve wcode freq) :=
  ⟨⟨"SOLVE", 0x0800000000000000000000, 0xFFFF0000000000FFFFFFFF⟩, by simp [opcodeTable], rfl,
    spells_of_fields (mop := 0xFF) (mch := 0xFF) (marg := 0) (mfreq := 0) (mcount := 0xFFFFFFFF)
      (pop := 0x08) (pch := 0) (parg := 0) (pfreq := 0) (pcount := 0) (by decide) (by decide) (by simp)⟩

end Sys2Proof.Laws.Spelling
end

