-- ==== Sys2Proof/Laws/Runs.lean ====
section
/-! SUPPORT. What one instant of a run does, by what comes at it. -/

namespace Sys2Proof.Machine

@[simp] theorem trajectory_zero (s : State) (input : Inputs) : trajectory s input 0 = { s with schedule := [] } := rfl

theorem trajectory_succ (s : State) (input : Inputs) (k : Nat) {s' : State}
    (h : step { trajectory s input k with schedule := (input k).toList } = .next s') :
    trajectory s input (k + 1) = s' := by
  rw [trajectory, h]

/-- Between instants no stimulus is waiting. -/
theorem trajectory_schedule (s : State) (input : Inputs) (k : Nat) : (trajectory s input k).schedule = [] := by
  induction k with
  | zero => rfl
  | succ k ih =>
    rw [trajectory]
    split
    · rename_i s' h
      rcases step_cases h with ⟨hs, rfl⟩ | ⟨w, rest, hs, _, rfl⟩ | ⟨w, rest, i, hs, _, he⟩ | ⟨t, rest, hs, rfl⟩ |
        ⟨p, rest, hs, rfl⟩
      · exact hs
      all_goals
        have hrest : rest = [] := by
          cases hk : input k with
          | none => simp [hk] at hs
          | some x =>
            rw [hk] at hs
            cases hs
            rfl
      · exact hrest
      · exact (effect_frame he).2.trans hrest
      · exact (compareMatch_frame _ t).2.1.trans hrest
      · exact hrest
    · exact ih
    · exact ih

/-- With no stimulus waiting, taking the schedule away changes nothing. -/
theorem trajectory_withoutSchedule (s : State) (input : Inputs) (k : Nat) :
    { trajectory s input k with schedule := [] } = trajectory s input k := by
  have h := trajectory_schedule s input k
  generalize trajectory s input k = a at h
  rw [← h]

/-- An instant at which nothing comes changes nothing. -/
theorem trajectory_none {s : State} {input : Inputs} {k : Nat} (h : input k = none) :
    trajectory s input (k + 1) = trajectory s input k := by
  have hs : { trajectory s input k with schedule := (input k).toList } = trajectory s input k := by
    rw [h]
    exact trajectory_withoutSchedule s input k
  refine trajectory_succ s input k ?_
  rw [hs, step, trajectory_schedule]

/-- An instant at which an event comes is that event (R167). -/
theorem trajectory_event {s : State} {input : Inputs} {k : Nat} {t : Byte} (h : input k = some (.compareMatch t)) :
    trajectory s input (k + 1) = (trajectory s input k).compareMatch t := by
  refine trajectory_succ s input k ?_
  rw [h]
  exact congrArg (fun a : State => Host.Outcome.next (a.compareMatch t)) (trajectory_withoutSchedule s input k)

/-- A run depends on what came before only. -/
theorem trajectory_congr {s : State} {a b : Inputs} {n : Nat} (h : ∀ k, k < n → a k = b k) :
    trajectory s a n = trajectory s b n := by
  induction n with
  | zero => rfl
  | succ n ih =>
    rw [trajectory, trajectory, ih (fun k hk => h k (Nat.lt_succ_of_lt hk)), h n (Nat.lt_succ_self n)]

end Sys2Proof.Machine
end

