-- ==== Sys2Proof/Laws/Timing.lean ====
section
/-! SUPPORT. The search of the timing engine (R100): what a result says, and when there is none. -/

namespace Sys2Proof.Machine

theorem fitsCounter_iff (w : Width) (q : Nat) : fitsCounter w q = true ↔ 1 ≤ q ∧ q ≤ 2 ^ widthBits w := by
  simp [fitsCounter]

/-- A result comes from the first divider that fits (R100). -/
theorem searchPrescalers_some {fClk f : Nat} {w : Width} {l : List Prescale} {tm : Timing}
    (h : searchPrescalers fClk f w l = some tm) :
    ∃ before p after, l = before ++ p :: after ∧ (∀ q ∈ before, fitsCounter w (quotient fClk q.divider f) = false) ∧
      fitsCounter w (quotient fClk p.divider f) = true ∧
      tm = ⟨quotient fClk p.divider f - 1, p.selector⟩ := by
  induction l with
  | nil => simp [searchPrescalers] at h
  | cons a rest ih =>
    rw [searchPrescalers] at h
    split at h
    · rename_i hfit
      exact ⟨[], a, rest, rfl, by simp, hfit, by simpa using h.symm⟩
    · rename_i hno
      obtain ⟨before, p, after, hl, hb, hp, ht⟩ := ih h
      refine ⟨a :: before, p, after, by simp [hl], ?_, hp, ht⟩
      intro q hq
      rcases List.mem_cons.mp hq with rfl | hq
      · simpa using hno
      · exact hb q hq

/-- There is no result exactly when no divider fits (R100). -/
theorem searchPrescalers_none {fClk f : Nat} {w : Width} {l : List Prescale} :
    searchPrescalers fClk f w l = none ↔ ∀ p ∈ l, fitsCounter w (quotient fClk p.divider f) = false := by
  induction l with
  | nil => simp [searchPrescalers]
  | cons a rest ih =>
    rw [searchPrescalers]
    cases ha : fitsCounter w (quotient fClk a.divider f) <;> simp [ha, ih]

/-- The quotient does not increase with the divider (R106). -/
theorem quotient_antitone {fClk f a b : Nat} (hf : 1 ≤ f) (ha : 0 < a) (hab : a ≤ b) :
    quotient fClk b f ≤ quotient fClk a f := by
  unfold quotient
  apply Nat.div_le_div_left
  · exact Nat.mul_le_mul_right f (Nat.mul_le_mul_left 2 hab)
  · positivity

end Sys2Proof.Machine
end

