-- ==== Sys2Proof/Machine/Text.lean ====
section
/-! DEFINITION. The textual form of commands, events and responses (R77) and the two pseudo-commands (R78). No step
reads it (D34). Text is a list of characters. -/

namespace Sys2Proof.Machine

/-- A text (R77). -/
abbrev Text := List Char

/-- Blanks between the parts of a command (R77; which blanks: log entry 20). -/
def isBlank (c : Char) : Bool := c == ' ' || c == '\t'

/-- The text without blanks at either side. -/
def trimBlanks (t : Text) : Text := ((t.dropWhile isBlank).reverse.dropWhile isBlank).reverse

/-- The comma-separated parts of a text (R77). -/
def splitCommas : Text → List Text
  | [] => [[]]
  | c :: cs =>
    if c == ',' then [] :: splitCommas cs
    else match splitCommas cs with
      | [] => [[c]]
      | part :: parts => (c :: part) :: parts

/-- The value of a decimal or hexadecimal digit. -/
def digitValue (c : Char) : Option Nat :=
  if '0' ≤ c ∧ c ≤ '9' then some (c.toNat - '0'.toNat)
  else if 'a' ≤ c ∧ c ≤ 'f' then some (c.toNat - 'a'.toNat + 10)
  else if 'A' ≤ c ∧ c ≤ 'F' then some (c.toNat - 'A'.toNat + 10)
  else none

/-- Reads digits of a base, most significant first, onto an accumulator. -/
def readDigits (base : Nat) : Nat → Text → Option Nat
  | acc, [] => some acc
  | acc, c :: cs => match digitValue c with
    | none => none
    | some d => if d < base then readDigits base (acc * base + d) cs else none

/-- A number "in decimal or `0x` hexadecimal" (R77). -/
def readNumber : Text → Option Nat
  | [] => none
  | ['0', 'x'] => none
  | '0' :: 'x' :: ds => readDigits 16 0 ds
  | ds => readDigits 10 0 ds

/-- A number that fits a field of `n` bits. -/
def readField (n : Nat) (t : Text) : Option (BitVec n) :=
  match readNumber t with
  | none => none
  | some v => if v < 2 ^ n then some (BitVec.ofNat n v) else none

/-- The word `discrete` (R77). -/
def discreteName : Text := ['d', 'i', 's', 'c', 'r', 'e', 't', 'e']
/-- The word `continuous` (R77). -/
def continuousName : Text := ['c', 'o', 'n', 't', 'i', 'n', 'u', 'o', 'u', 's']

/-- `mode` is one of discrete, continuous, a number 0..255 (R77). -/
def readMode (t : Text) : Option Byte :=
  if t = discreteName then some 0x01 else if t = continuousName then some 0x02 else readField 8 t

/-- `width` is 8 or 16 (R77); its codes are 0x08 and 0x10 (R72). -/
def readWidth (t : Text) : Option Byte :=
  match readNumber t with
  | some 8 => some 0x08
  | some 16 => some 0x10
  | _ => none

/-- The textual forms, by name (R77, R78). -/
inductive TextForm where
  | construct
  | generate
  | update
  | stop
  | isrunning
  | isvalid
  | geterror
  | solve
  | pulses
  | wave
deriving DecidableEq, Repr

/-- The name of a textual form (R77, R78). -/
def TextForm.name : TextForm → Text
  | .construct => ['c', 'o', 'n', 's', 't', 'r', 'u', 'c', 't']
  | .generate  => ['g', 'e', 'n', 'e', 'r', 'a', 't', 'e']
  | .update    => ['u', 'p', 'd', 'a', 't', 'e']
  | .stop      => ['s', 't', 'o', 'p']
  | .isrunning => ['i', 's', 'r', 'u', 'n', 'n', 'i', 'n', 'g']
  | .isvalid   => ['i', 's', 'v', 'a', 'l', 'i', 'd']
  | .geterror  => ['g', 'e', 't', 'e', 'r', 'r', 'o', 'r']
  | .solve     => ['s', 'o', 'l', 'v', 'e']
  | .pulses    => ['p', 'u', 'l', 's', 'e', 's']
  | .wave      => ['w', 'a', 'v', 'e']

/-- Every textual form. -/
def TextForm.all : List TextForm :=
  [.construct, .generate, .update, .stop, .isrunning, .isvalid, .geterror, .solve, .pulses, .wave]

/-- The command a form with these operand texts stands for, the channel index first (R77, R78). -/
def assemble : TextForm → List Text → Option Instr
  | .construct, [c, p]      => do return .construct (← readField 8 c) (← readField 8 p)
  | .generate, [c, f, m, n] =>
    do return .generate (← readField 8 c) (← readMode m) (← readField 32 f) (← readField 32 n)
  | .update, [c, f]         => do return .updatefreq (← readField 8 c) (← readField 32 f)
  | .stop, [c]              => do return .stop (← readField 8 c)
  | .isrunning, [c]         => do return .isrunning (← readField 8 c)
  | .isvalid, [c]           => do return .isvalid (← readField 8 c)
  | .geterror, [c]          => do return .geterror (← readField 8 c)
  | .solve, [w, f]          => do return .solve (← readWidth w) (← readField 32 f)
  | .pulses, [c, f, n]      => do return .pulses (← readField 8 c) (← readField 32 f) (← readField 32 n)
  | .wave, [c, f]           => do return .wave (← readField 8 c) (← readField 32 f)
  | _, _                    => none

/-- Reads one command from its textual form (R77, R78). -/
def parseCommand (text : Text) : Option Instr :=
  let t := trimBlanks text
  match TextForm.all.find? (fun k => k.name == t.takeWhile (fun c => !isBlank c)) with
  | none => none
  | some k => assemble k ((splitCommas (t.dropWhile (fun c => !isBlank c))).map trimBlanks)

/-- A number in decimal. -/
def showNumber (n : Nat) : Text := Nat.toDigits 10 n

/-- The mode operand in text: the two names, else the code (R77). -/
def showMode (m : Byte) : Text :=
  if m = 0x01 then discreteName else if m = 0x02 then continuousName else showNumber m.toNat

/-- Operand texts, comma separated (R77). -/
def joinCommas : List Text → Text
  | [] => []
  | [t] => t
  | t :: ts => t ++ [',', ' '] ++ joinCommas ts

/-- The textual form of a command (R77). -/
def showCommand : Instr → Text
  | .construct c p    => TextForm.construct.name ++ [' '] ++ joinCommas [showNumber c.toNat, showNumber p.toNat]
  | .generate c m f n => TextForm.generate.name ++ [' '] ++
      joinCommas [showNumber c.toNat, showNumber f.toNat, showMode m, showNumber n.toNat]
  | .updatefreq c f   => TextForm.update.name ++ [' '] ++ joinCommas [showNumber c.toNat, showNumber f.toNat]
  | .stop c           => TextForm.stop.name ++ [' '] ++ showNumber c.toNat
  | .isrunning c      => TextForm.isrunning.name ++ [' '] ++ showNumber c.toNat
  | .isvalid c        => TextForm.isvalid.name ++ [' '] ++ showNumber c.toNat
  | .geterror c       => TextForm.geterror.name ++ [' '] ++ showNumber c.toNat
  | .solve w f        => TextForm.solve.name ++ [' '] ++ joinCommas [showNumber w.toNat, showNumber f.toNat]

/-- A compare-match event in traces, `irq t` (R77). -/
def showEvent (t : Byte) : Text := ['i', 'r', 'q', ' '] ++ showNumber t.toNat

/-- A response in traces, `-> STATUS, VAL8, VAL16` (R75, R77). -/
def showResponse (w : Word) : Text :=
  ['-', '>', ' '] ++ joinCommas
    [showNumber (w.extractLsb' 24 8).toNat, showNumber (w.extractLsb' 16 8).toNat, showNumber (w.extractLsb' 0 16).toNat]

end Sys2Proof.Machine
end

