-- ==== Sys2Proof/Tests/Slice0.lean ====
section
/-! SUPPORT. Tests whose expected values are the spec's (its worked examples and 95_test_vectors.md, cited), and for
every obligation with hypotheses a named witness that meets them. -/

namespace Sys2Proof.Tests

open Sys2Proof Sys2Proof.Machine

/-! ### Decoding: one word per row of the table, field by field from R70, R71, R73 -/

theorem test_decode_construct :
    decode (0x01#8 ++ 0x00#8 ++ 0x09#8 ++ 0x00000000#32 ++ 0x00000000#32) = .ok (.construct 0 9) := by decide
theorem test_decode_generate :
    decode (0x02#8 ++ 0x00#8 ++ 0x01#8 ++ 0x000003E8#32 ++ 0x00000003#32) = .ok (.generate 0 1 1000 3) := by decide
theorem test_decode_updatefreq :
    decode (0x03#8 ++ 0x00#8 ++ 0x00#8 ++ 0x0000001E#32 ++ 0x00000000#32) = .ok (.updatefreq 0 30) := by decide
theorem test_decode_stop :
    decode (0x04#8 ++ 0x03#8 ++ 0x00#8 ++ 0x00000000#32 ++ 0x00000000#32) = .ok (.stop 3) := by decide
theorem test_decode_isrunning :
    decode (0x05#8 ++ 0x02#8 ++ 0x00#8 ++ 0x00000000#32 ++ 0x00000000#32) = .ok (.isrunning 2) := by decide
theorem test_decode_isvalid :
    decode (0x06#8 ++ 0x01#8 ++ 0x00#8 ++ 0x00000000#32 ++ 0x00000000#32) = .ok (.isvalid 1) := by decide
theorem test_decode_geterror :
    decode (0x07#8 ++ 0x03#8 ++ 0x00#8 ++ 0x00000000#32 ++ 0x00000000#32) = .ok (.geterror 3) := by decide
theorem test_decode_solve :
    decode (0x08#8 ++ 0x00#8 ++ 0x10#8 ++ 0x000003E8#32 ++ 0x00000000#32) = .ok (.solve 16 1000) := by decide

/-- The same word as the opcode table numbers its bits. -/
theorem test_decodeTableWord : decodeTableWord 88 0x080010000003E800000000 = some (.solve 16 1000) := by decide

/-- A stray field of SOLVE (R71: `ch` must be zero). -/
theorem test_decode_stray : decode 0x080110000003E800000000 = .error (.mustBeZero .ch) := by decide

/-! ### WellFormed smoke: the one check, with an ill-formed term it refuses (R72, R74 d) -/

theorem test_wellFormed_solve : (Instr.solve 16 1000).wellFormed = true := by decide
theorem test_illFormed_solve : (Instr.solve 12 1000).wellFormed = false := by decide

/-! ### Small states on the example board (95_test_vectors.md section 1) -/

/-- Slot 0 bound to pin 9, timer 0 (R90's worked example). -/
def slot0 (rs : RunState) (m : Mode) (target remaining : ToggleCount) : Channel :=
  ⟨true, 9, some 0, .w16, rs, m, target, remaining, .none⟩

/-- The example board with slot 0, timer 0 and the stimuli to come as given, slot 0 owning timer 0. -/
def board (c : Channel) (r : TimerRegs) (schedule : List Stimulus) : State :=
  { State.reset with
    channels := [c, Channel.initial, Channel.initial, Channel.initial]
    registry := [some 0, none, none]
    timers := [r, TimerRegs.zero, TimerRegs.zero]
    schedule := schedule }

/-- Timer 0 of a bound, never started slot. -/
def quiet0 : TimerRegs := ⟨0x00, 0x00, 0x00, 0, 0x00, 0x01, false⟩
/-- Timer 0 as R122's worked example leaves it (1000 Hz, Discrete). -/
def run0 : TimerRegs := ⟨0x41, 0x01, 0x01, 7999, 0x00, 0x01, false⟩

/-- After `construct 0, 9`. -/
def idle : State := board (slot0 .idle .stopped 0 0) quiet0 []
/-- After `construct 0, 9` and `generate 0, 1000, discrete, 3` (R122). -/
def running : State := board (slot0 .running .discrete 6 6) run0 []

/-- The answer of a command and the state beside it: what a test compares. -/
def answer (o : Host.Outcome State Fault Refusal) : Option Output :=
  match o with
  | .next s => s.trace.getLast?
  | .fault _ => none
  | .refused _ => none
/-- The slot `c` a command leaves. -/
def slotAfter (o : Host.Outcome State Fault Refusal) (c : Byte) : Option Channel :=
  match o with
  | .next s => some (s.ch c)
  | .fault _ => none
  | .refused _ => none
/-- The timer `t` a command leaves. -/
def timerAfter (o : Host.Outcome State Fault Refusal) (t : Byte) : Option TimerRegs :=
  match o with
  | .next s => some (s.timer t)
  | .fault _ => none
  | .refused _ => none

/-! ### Commands -/

/-- R90's worked example, from reset: the slot, the owner, the direction register. -/
theorem test_construct_binds :
    slotAfter (exec (.construct 0 9) State.reset) 0 = some (slot0 .idle .stopped 0 0) ∧
    timerAfter (exec (.construct 0 9) State.reset) 0 = some quiet0 ∧
    answer (exec (.construct 0 9) State.reset) = some (.response 0x00010000) := by decide

/-- B3: a pin without a timer. -/
theorem test_construct_invalid :
    slotAfter (exec (.construct 1 13) State.reset) 1 =
      some ⟨true, 13, none, .w16, .idle, .stopped, 0, 0, .invalidPin⟩ ∧
    answer (exec (.construct 1 13) State.reset) = some (.response 0x01000000) := by decide

/-- R122's worked example (G11). -/
theorem test_generate_discrete :
    slotAfter (exec (.generate 0 1 1000 3) idle) 0 = some (slot0 .running .discrete 6 6) ∧
    timerAfter (exec (.generate 0 1 1000 3) idle) 0 = some run0 ∧
    answer (exec (.generate 0 1 1000 3) idle) = some (.response 0x00010000) := by decide

/-- G14: the toggle count needs 33 bits. -/
theorem test_generate_wide_count :
    slotAfter (exec (.generate 0 1 1 4294967295) idle) 0 =
      some (slot0 .running .discrete 8589934590 8589934590) := by decide

/-- U8, R127's worked example: the divider changes too. -/
theorem test_updatefreq :
    timerAfter (exec (.updatefreq 0 30) running) 0 = some ⟨0x41, 0x02, 0x01, 0x8234, 0x00, 0x01, false⟩ ∧
    answer (exec (.updatefreq 0 30) running) = some (.response 0x00010000) := by decide

/-- U4: not running is seen before the zero frequency. -/
theorem test_updatefreq_not_running : answer (exec (.updatefreq 0 0) idle) = some (.response 0x07000000) := by decide

/-- T4: only the named bits are cleared, the counters stay. -/
theorem test_stop :
    slotAfter (exec (.stop 0) running) 0 = some (slot0 .idle .stopped 6 6) ∧
    timerAfter (exec (.stop 0) running) 0 = some ⟨0x01, 0x00, 0x00, 7999, 0x00, 0x01, false⟩ ∧
    answer (exec (.stop 0) running) = some (.response 0x00000000) := by decide

/-- Q2. -/
theorem test_isrunning : answer (exec (.isrunning 0) running) = some (.response 0x00010000) := by decide

/-- R91's worked example: bound, and never constructed. -/
theorem test_isvalid :
    answer (exec (.isvalid 0) idle) = some (.response 0x00010000) ∧
    answer (exec (.isvalid 1) idle) = some (.response 0x00000000) := by decide

/-- Q5: after G7 the flag is `ZeroPulses`. -/
theorem test_geterror :
    answer (exec (.geterror 0) (idle.updCh 0 (fun r => { r with lastError := .zeroPulses }))) =
      some (.response 0x00040000) := by decide

/-- S16-11. -/
theorem test_solve_16 : answer (exec (.solve 0x10 1000) State.reset) = some (.response 0x00011F3F) := by decide
/-- S8-4: 30 Hz is too low on eight bits, though the quotient 260 would fit if cut. -/
theorem test_solve_8_too_low : answer (exec (.solve 0x08 30) State.reset) = some (.response 0x06000000) := by decide

/-- A slot that does not exist (R74 c). -/
theorem test_illegal_slot : exec (.stop 4) idle = .next { idle with trace := [.response 0xFF000000] } := rfl

/-! ### Events -/

/-- P1: the first event of the run raises the pin and counts 6 to 5. -/
theorem test_event_counts :
    ((running.compareMatch 0).timer 0).pinLevel = some true ∧
    ((running.compareMatch 0).ch 0).pulseRemaining = 5 := by decide

/-- P1: the sixth event stops the channel and leaves the pin LOW. -/
theorem test_event_stops :
    ((board (slot0 .running .discrete 6 1) { run0 with out := true } []).compareMatch 0).ch 0 =
      slot0 .idle .stopped 6 0 ∧
    ((board (slot0 .running .discrete 6 1) { run0 with out := true } []).compareMatch 0).timer 0 =
      ⟨0x01, 0x00, 0x00, 7999, 0x00, 0x01, false⟩ := by decide

/-- X5: a custom divider list leaves a hole in the middle (R106 c). -/
theorem test_solver_hole :
    computeTiming { Config.exampleBoard with presc8 := [⟨1, 1⟩, ⟨1024, 5⟩] } 10000 .w8 = none := by decide

/-! ### The textual form (R77, R78) -/

theorem test_text_generate :
    parseCommand ['g', 'e', 'n', 'e', 'r', 'a', 't', 'e', ' ', '1', ',', ' ', '0', 'x', '3', 'E', '8', ',', ' ',
      '7', ',', ' ', '2'] = some (.generate 1 7 1000 2) := by decide

/-- `wave c, freq` is `generate c, freq, continuous, 0` (R78). -/
theorem test_text_wave : parseCommand ['w', 'a', 'v', 'e', ' ', '1', ',', '9'] = some (.generate 1 0x02 9 0) := by
  decide

/-! ### Witnesses: for each obligation with hypotheses, a concrete state and operands that meet them -/

theorem witness_EncodeOfDecodeIsTheWord : decode 0x0100090000000000000000 = .ok (.construct 0 9) := by decide

/-- One word for each case (a) to (e) of R74, each at the head of a schedule. -/
theorem witness_IllegalWordIsAnsweredAndChangesNothing :
    (board (slot0 .idle .stopped 0 0) quiet0 [.command 0x0900000000000000000000]).schedule =
      .command 0x0900000000000000000000 :: [] ∧
    IllegalWord idle 0x0000000000000000000000 ∧ IllegalWord idle 0x0900000000000000000000 ∧
    IllegalWord idle 0x0100090000000000000001 ∧ IllegalWord idle 0x0304000000000000000000 ∧
    IllegalWord idle 0x0800110000000100000000 ∧ IllegalWord idle 0x0100090000000000000000 := by
  refine ⟨rfl, ?_, ?_, ?_, ?_, ?_, ?_⟩ <;> (unfold IllegalWord; decide)

/-- The three clauses: a word that decodes, a table word that decodes, an empty schedule. -/
theorem witness_StepRunsTheDecodedCommand :
    (State.reset.withFetchWord 88 0x0400000000000000000000).schedule = .command 0x0400000000000000000000 :: [] ∧
    decode 0x0400000000000000000000 = .ok (.stop 0) ∧
    decodeTableWord 88 0x0400000000000000000000 = some (.stop 0) ∧ State.reset.schedule = [] := by decide

/-- A command that answers, with its successor; the word is R124's. -/
theorem witness_OneResponsePerCommandAfterItsWrites :
    ∃ s', (board (slot0 .running .discrete 6 6) run0 [.command 0x0400000000000000000000]).schedule =
        .command 0x0400000000000000000000 :: [] ∧
      step (board (slot0 .running .discrete 6 6) run0 [.command 0x0400000000000000000000]) = .next s' := ⟨_, rfl, rfl⟩

theorem witness_StepKeepsConfigurationAndHistory :
    ∃ s', step (board (slot0 .running .discrete 6 6) run0 [.compareMatch 0]) = .next s' := ⟨_, rfl⟩

theorem witness_LaunchStateHasTheResetValues : LaunchPremise [TimerRegs.zero, TimerRegs.zero, TimerRegs.zero] := by
  simp [LaunchPremise]

theorem witness_ResetDuringARunRestoresPtoState :
    (board (slot0 .running .discrete 6 6) run0 [.rst [run0]]).schedule = .rst [run0] :: [] ∧
    (2 : Byte).toNat < running.cfg.nTimer := by decide

/-- The illegal clause at its four reasons (slot 4 is the first that does not exist), the unattached pin, the pin of
timer 2; slot 3 is the last slot. -/
theorem witness_ConstructBindsTheSlotOnce :
    idle.cfg.nCh ≤ (4 : Byte).toNat ∧ (idle.ch 0).constructed = true ∧ (1 : Word) ≠ 0 ∧
    (3 : Byte).toNat < idle.cfg.nCh ∧ (idle.ch 3).constructed = false ∧ lookupPin idle.cfg 13 = none ∧
    lookupPin idle.cfg 11 = some (2, .w8) := by decide

theorem witness_BindingIsImmutable :
    ∃ s', (running.ch 0).constructed = true ∧
      step (board (slot0 .running .discrete 6 6) run0 [.compareMatch 0]) = .next s' ∧
      (∀ platform rest, (board (slot0 .running .discrete 6 6) run0 [.compareMatch 0]).schedule ≠ .rst platform :: rest) :=
  ⟨_, rfl, rfl, fun _ _ h => by cases h⟩

/-- A second slot constructed on pin 9 (program P4); the state after it meets the last clauses. -/
theorem witness_EvictionRedirectsTheEvents :
    running.Sized ∧ (0 : Byte).toNat < running.cfg.nTimer ∧ running.owner 0 = some 0 ∧ (0 : Byte) ≠ 1 ∧
    (1 : Byte).toNat < running.cfg.nCh ∧ (running.ch 1).constructed = false ∧
    lookupPin running.cfg 9 = some (0, .w16) ∧
    (running.setOwner 0 1).owner 0 = some 1 ∧ ((running.setOwner 0 1).ch 1).mode ≠ .discrete := by
  unfold State.Sized; decide

/-- The largest compare value of an 8-bit timer, q = 256 (S8-20). -/
theorem witness_TimingStaysInBounds : computeTiming Config.exampleBoard 31129 .w8 = some ⟨255, 1⟩ := by decide

theorem witness_SmallestFittingDividerIsChosen :
    PrescaleListOk (prescalers Config.exampleBoard .w8) ∧
    computeTiming Config.exampleBoard 1000 .w8 = some ⟨249, 3⟩ ∧
    (1 ≤ Config.exampleBoard.fClk / (2 * 1024 * 1000) ∧ Config.exampleBoard.fClk / (2 * 1024 * 1000) ≤ 2 ^ widthBits .w8) := by
  decide

theorem witness_AchievedFrequencyIsNeverBelowTheRequest :
    PrescaleListOk (prescalers Config.exampleBoard .w16) ∧ 1 ≤ 30 ∧
    computeTiming Config.exampleBoard 30 .w16 = some ⟨33332, 2⟩ := by decide

/-- (a) at 8000001, (b) at the clock of X4, (c) at both ends of the range of a 16-bit timer. -/
theorem witness_OutOfRangeOnlyAtTheTwoEnds :
    PrescaleListOk (prescalers Config.exampleBoard .w16) ∧
    (prescalers Config.exampleBoard .w16).head? = some ⟨1, 1⟩ ∧
    (prescalers Config.exampleBoard .w16).getLast? = some ⟨1024, 5⟩ ∧
    Config.exampleBoard.fClk < 2 * 1 * 8000001 ∧
    2 ^ widthBits .w16 + 1 ≤ 200000000 / (2 * 1024 * 1) ∧
    (2 * 1 * 8000000 ≤ Config.exampleBoard.fClk ∧ 2 * 1 * 1 ≤ Config.exampleBoard.fClk ∧
      Config.exampleBoard.fClk / (2 * 1024 * 1) < 2 ^ widthBits .w16 + 1) ∧
    (prescalers Config.exampleBoard .w16).IsChain (fun a b => b.divider ≤ (2 ^ widthBits .w16 + 1) * a.divider) := by
  decide

theorem witness_DefaultThresholds :
    Config.exampleBoard.fClk = 16000000 ∧ Config.exampleBoard.presc16 = Config.defaultPresc16 ∧
    Config.exampleBoard.presc8 = Config.defaultPresc8 ∧ 1 ≤ 123 := by decide

theorem witness_EarlyExitGivesTheSameResult :
    1 ≤ 9000000 ∧ (∀ p ∈ Config.defaultPresc8, 0 < p.divider) ∧
    Config.defaultPresc8.Pairwise (fun a b => a.divider < b.divider) := by decide

/-- Illegal by a stray `ch`, a stray `count`, a width code on either side of 0x08; both legal codes. -/
theorem witness_SolveAnswersTheSolver :
    (1 : Byte) ≠ 0 ∧ (1 : Word) ≠ 0 ∧ ((0x07 : Byte) ≠ 0x08 ∧ (0x07 : Byte) ≠ 0x10) ∧
    (((0x08 : Byte) = 0x08 ∧ Width.w8 = Width.w8) ∨ ((0x08 : Byte) = 0x10 ∧ Width.w8 = Width.w16)) ∧
    (((0x10 : Byte) = 0x08 ∧ Width.w16 = Width.w8) ∨ ((0x10 : Byte) = 0x10 ∧ Width.w16 = Width.w16)) := by decide

/-- The branches in their order: no slot; not bound; running; zero frequency, mode 3 and count 0 on the idle slot;
8000001 Hz. -/
theorem witness_GenerateReportsTheFirstFailingCheck :
    idle.cfg.nCh ≤ (4 : Byte).toNat ∧ (3 : Byte).toNat < idle.cfg.nCh ∧ (idle.ch 3).timerIdentity = none ∧
    (running.ch 0).timerIdentity ≠ none ∧ (running.ch 0).runState = .running ∧
    (idle.ch 0).timerIdentity ≠ none ∧ (idle.ch 0).runState ≠ .running ∧ ((3 : Byte) ≠ 0x01 ∧ (3 : Byte) ≠ 0x02) ∧
    computeTiming idle.cfg (8000001 : Word).toNat (idle.ch 0).counterWidth = none := by decide

theorem witness_GenerateProgramsTheTimer :
    (0 : Byte).toNat < idle.cfg.nCh ∧ (idle.ch 0).timerIdentity = some 0 ∧ (idle.ch 0).runState = .idle ∧
    (1000 : Word) ≠ 0 ∧ computeTiming idle.cfg (1000 : Word).toNat (idle.ch 0).counterWidth = some ⟨7999, 1⟩ ∧
    (4294967295 : Word) ≠ 0 := by decide

/-- Illegal; not bound; not running; running with a frequency that fits, and with one that does not. -/
theorem witness_UpdatefreqSwapsTheTiming :
    running.cfg.nCh ≤ (4 : Byte).toNat ∧ (3 : Byte).toNat < running.cfg.nCh ∧
    (running.ch 3).timerIdentity = none ∧ (idle.ch 0).timerIdentity = some 0 ∧ (idle.ch 0).runState ≠ .running ∧
    (running.ch 0).timerIdentity = some 0 ∧ (running.ch 0).runState = .running ∧
    computeTiming running.cfg (30 : Word).toNat (running.ch 0).counterWidth = some ⟨33332, 2⟩ ∧
    computeTiming running.cfg (8000001 : Word).toNat (running.ch 0).counterWidth = none := by decide

theorem witness_StopHaltsTheChannel :
    running.cfg.nCh ≤ (4 : Byte).toNat ∧ (3 : Byte).toNat < running.cfg.nCh ∧
    (running.ch 3).timerIdentity = none ∧ (0 : Byte).toNat < running.cfg.nCh ∧
    (running.ch 0).timerIdentity = some 0 := by decide

/-- The slots of a board with one bound slot. -/
theorem board_ch (r : Channel) (t : TimerRegs) (l : List Stimulus) (c : Byte) :
    (board r t l).ch c = if c = 0 then r else Channel.initial := by
  unfold State.ch board
  rcases h : c.toNat with _ | _ | _ | _ | n
  · rw [if_pos (BitVec.eq_of_toNat_eq h)]; rfl
  all_goals
    rw [if_neg (fun h0 => by rw [h0] at h; cases h)]
    rfl

/-- The owners of a board with one bound slot. -/
theorem board_owner (r : Channel) (t : TimerRegs) (l : List Stimulus) (u : Byte) :
    (board r t l).owner u = if u = 0 then some 0 else none := by
  unfold State.owner board
  rcases h : u.toNat with _ | _ | _ | n
  · rw [if_pos (BitVec.eq_of_toNat_eq h)]; rfl
  all_goals
    rw [if_neg (fun h0 => by rw [h0] at h; cases h)]
    rfl

/-- The timers of a board with one bound slot. -/
theorem board_timer (r : Channel) (t : TimerRegs) (l : List Stimulus) (u : Byte) :
    (board r t l).timer u = if u = 0 then t else TimerRegs.zero := by
  unfold State.timer board
  rcases h : u.toNat with _ | _ | _ | n
  · rw [if_pos (BitVec.eq_of_toNat_eq h)]; rfl
  all_goals
    rw [if_neg (fun h0 => by rw [h0] at h; cases h)]
    rfl

/-- Only slot 0 of a board is bound, to timer 0. -/
theorem board_identity {rs : RunState} {m : Mode} {a b : ToggleCount} {t : TimerRegs} {l : List Stimulus} {c u : Byte}
    (h : ((board (slot0 rs m a b) t l).ch c).timerIdentity = some u) : c = 0 ∧ u = 0 := by
  rw [board_ch] at h
  split at h
  · rename_i hc
    cases h
    exact ⟨hc, rfl⟩
  · cases h

theorem board_unshared (rs : RunState) (m : Mode) (a b : ToggleCount) (t : TimerRegs) (l : List Stimulus) :
    (board (slot0 rs m a b) t l).Unshared := fun _ _ _ h1 h2 =>
  (board_identity h1).1.trans (board_identity h2).1.symm

/-- A board whose slot 0 and timer 0 agree has the invariants, whatever commands and events are to come. -/
theorem board_inv {rs : RunState} {m : Mode} {a b : ToggleCount} {r : TimerRegs} {l : List Stimulus}
    (hidle : rs = .idle ↔ m = .stopped) (hdir : r.direction = 1) (hquiet : rs = .idle → r.Quiet)
    (hprog : rs = .running → r.Programmed Config.exampleBoard .w16 m)
    (hcount : m = .discrete → 1 ≤ b.toNat ∧ b.toNat ≤ a.toNat ∧ a.toNat % 2 = 0 ∧ 2 ≤ a.toNat)
    (hl : ∀ platform, Stimulus.rst platform ∉ l) : (board (slot0 rs m a b) r l).Inv where
  cfgOk := by show Config.exampleBoard.Ok; decide
  sized := ⟨rfl, rfl, rfl⟩
  idleIffStopped c := by
    rw [board_ch]
    split
    · exact hidle
    · decide
  idleQuiet _ c t h hc := by
    obtain ⟨rfl, rfl⟩ := board_identity h
    exact hquiet hc
  boundIsOutput c t h := by
    obtain ⟨rfl, rfl⟩ := board_identity h
    exact hdir
  invalidIdle c h := by
    rw [board_ch] at h ⊢
    split
    · rename_i hc
      rw [if_pos hc] at h
      cases h
    · rfl
  runningProgrammed _ c t h hc := by
    obtain ⟨rfl, rfl⟩ := board_identity h
    exact hprog hc
  discreteCount c h := by
    rw [board_ch] at h ⊢
    split
    · rename_i hc
      rw [if_pos hc] at h
      exact hcount h
    · rename_i hc
      rw [if_neg hc] at h
      cases h
  validConstructed c h := by
    rw [board_ch] at h ⊢
    split
    · rfl
    · rename_i hc
      rw [if_neg hc] at h
      exact absurd rfl h
  boundByTable c t h := by
    obtain ⟨rfl, rfl⟩ := board_identity h
    show lookupPin Config.exampleBoard 9 = some (0, .w16)
    decide
  registryConsistent t c h := by
    rw [board_owner] at h
    split at h
    · rename_i ht
      cases h
      rw [ht]; rfl
    · cases h
  boundIsOwned c t h := by
    obtain ⟨rfl, rfl⟩ := board_identity h
    exact Option.some_ne_none 0
  unboundQuiet t h := by
    rw [board_timer]
    split
    · rename_i ht
      exact absurd (by rw [ht]; rfl) (h 0)
    · unfold TimerRegs.Quiet; decide
  resetsMeetPremise p hp := absurd hp (hl p)

/-- The board after `construct 0, 9`. -/
theorem idle_inv (l : List Stimulus) (hl : ∀ platform, Stimulus.rst platform ∉ l) :
    (board (slot0 .idle .stopped 0 0) quiet0 l).Inv :=
  board_inv (by decide) (by decide) (fun _ => by unfold TimerRegs.Quiet; decide) (by simp) (by simp) hl

theorem witness_StopIsIdempotent :
    idle.Inv ∧ idle.Unshared ∧ (idle.ch 0).timerIdentity = some 0 ∧ (idle.ch 0).runState = .idle :=
  ⟨idle_inv [] (by simp), board_unshared .idle .stopped 0 0 quiet0 [], rfl, rfl⟩

theorem witness_StopLeavesThePinLow :
    (0 : Byte).toNat < running.cfg.nCh ∧ (0 : Byte).toNat < running.timers.length ∧
    (running.ch 0).timerIdentity = some 0 ∧ (running.timer 0).direction = 1 := by decide

theorem witness_QueriesAnswerTheirField :
    idle.cfg.nCh ≤ (4 : Byte).toNat ∧ (1 : Byte) ≠ 0 ∧ (1 : Word) ≠ 0 ∧ (3 : Byte).toNat < idle.cfg.nCh := by decide

/-- A status that is not 0xFF, and one that is. -/
theorem witness_EachCommandReportsOnlyItsOwnErrors :
    ¬ IllegalWord idle (encode (.stop 3)) ∧ IllegalWord idle (encode (.stop 4)) := by
  unfold IllegalWord; decide

/-- A step that changes `lastError` (G7). -/
theorem witness_OnlyThreeCommandsWriteLastError :
    ∃ s', step (board (slot0 .idle .stopped 0 0) quiet0 [.command 0x020001000003E800000000]) = .next s' ∧
      (∀ platform rest, (board (slot0 .idle .stopped 0 0) quiet0 [.command 0x020001000003E800000000]).schedule ≠
        .rst platform :: rest) ∧
      (s'.ch 0).lastError ≠ (idle.ch 0).lastError ∧ idle.Sized := by
  refine ⟨_, rfl, ?_, ?_, rfl, rfl, rfl⟩
  · intro _ _ h
    cases h
  · decide

theorem witness_HaltedTimerHasNoEvent :
    (board (slot0 .idle .stopped 0 0) quiet0 [.compareMatch 0]).schedule = .compareMatch 0 :: [] ∧
    (idle.timer 0).cs = 0 := by decide

theorem witness_RunThatIsOverStaysOver :
    (board (slot0 .idle .stopped 0 0) quiet0 [.compareMatch 0, .compareMatch 2]).RunOver ∧
    (∀ platform, Stimulus.rst platform ∉ (board (slot0 .idle .stopped 0 0) quiet0 [.compareMatch 0, .compareMatch 2]).schedule) := by
  refine ⟨⟨by simp [board], fun t => ?_⟩, by simp [board]⟩
  rw [board_timer]
  split <;> decide

/-- The branches: interrupt off; no owner; a count above 1; the last count, with a timer and (no run reaches it)
without one; an owner that does not count. -/
theorem witness_CompareMatchTogglesAndCounts :
    (board (slot0 .running .discrete 6 6) run0 [.compareMatch 0]).schedule = .compareMatch 0 :: [] ∧
    (running.timer 0).cs ≠ 0 ∧ ({ run0 with imr := 0x00 } : TimerRegs).cmie = 0 ∧ (running.timer 0).cmie ≠ 0 ∧
    ({ running with registry := [none, none, none] } : State).owner 0 = none ∧ running.owner 0 = some 0 ∧
    ((running.ch 0).runState = .running ∧ (running.ch 0).mode = .discrete ∧ 2 ≤ (running.ch 0).pulseRemaining.toNat) ∧
    (slot0 .running .discrete 6 1).pulseRemaining.toNat = 1 ∧ (running.ch 0).timerIdentity = some 0 ∧
    ((board { slot0 .running .discrete 6 1 with timerIdentity := none } run0 []).ch 0).timerIdentity = none ∧
    (idle.ch 0).runState ≠ .running := by decide

theorem witness_EventsOfDifferentTimersCommute : (0 : Byte) ≠ 1 ∧ running.RegistryConsistent := by
  refine ⟨by decide, fun t c h => ?_⟩
  rw [running, board_owner] at h
  split at h
  · rename_i ht
    cases h
    rw [ht]; rfl
  · cases h

/-- An undriven pin, a connected one, a disconnected one. -/
theorem witness_PinLevelFollowsTheRegisters :
    TimerRegs.zero.direction = 0 ∧ (run0.direction = 1 ∧ run0.pa = 0b01) ∧ (quiet0.direction = 1 ∧ quiet0.pa = 0b00) ∧
    (run0.write .cra 0x00 0xC0).pa = 0b00 := by decide

/-- Two events left. -/
theorem witness_DiscreteRunEndsAfterExactlyTheCountLeft :
    let s := board (slot0 .running .discrete 6 2) run0 (List.replicate 2 (.compareMatch 0) ++ [])
    (0 : Byte).toNat < s.timers.length ∧ s.owner 0 = some 0 ∧ (s.ch 0).timerIdentity = some 0 ∧
    (s.ch 0).runState = .running ∧ (s.ch 0).mode = .discrete ∧ (s.ch 0).pulseRemaining.toNat = 2 ∧ 1 ≤ 2 ∧
    (s.timer 0).cs ≠ 0 ∧ (s.timer 0).cmie = 1 ∧ (s.timer 0).pa = paToggleOnMatch ∧ (s.timer 0).direction = 1 ∧
    s.schedule = List.replicate 2 (.compareMatch 0) ++ [] := by decide

/-- One pulse at 1000 Hz. -/
theorem witness_NPulsesAreExactlyTwoNEvents :
    let s := board (slot0 .idle .stopped 0 0) quiet0
      (.command (encode (.generate 0 0x01 1000 1)) :: List.replicate 2 (.compareMatch 0) ++ [])
    s.Inv ∧ s.owner 0 = some 0 ∧ (s.ch 0).runState = .idle ∧ (1000 : Word) ≠ 0 ∧ (1 : Word) ≠ 0 ∧
    computeTiming s.cfg (1000 : Word).toNat (s.ch 0).counterWidth = some ⟨7999, 1⟩ ∧
    s.schedule = .command (encode (.generate 0 0x01 1000 1)) ::
      List.replicate (2 * (1 : Word).toNat) (.compareMatch 0) ++ [] :=
  ⟨idle_inv _ (by simp), rfl, rfl, by decide, by decide, by decide, rfl⟩

/-- Continuous mode, and an owner that is not in Discrete mode. -/
theorem witness_UncountedRunNeverEndsByItself :
    let s := board (slot0 .running .continuous 0 0) { run0 with imr := 0x00 } (List.replicate 3 (.compareMatch 0) ++ [])
    (0 : Byte).toNat < s.timers.length ∧ (s.timer 0).cs ≠ 0 ∧ (s.timer 0).pa = paToggleOnMatch ∧
    (s.timer 0).cmie = 0 ∧ s.owner 0 = some 0 ∧ (s.ch 0).mode ≠ .discrete ∧
    s.schedule = List.replicate 3 (.compareMatch 0) ++ [] := by decide

/-- An event at the first instant, of a timer that runs. -/
theorem witness_EveryBeginningExtendsToAFairRun :
    ∀ k t, k < 1 → (fun _ => some (.compareMatch 0) : Inputs) k = some (.compareMatch t) →
      ((trajectory running (fun _ => some (.compareMatch 0)) k).timer t).cs ≠ 0 := by
  intro k t hk h
  cases h
  cases k with
  | zero => decide
  | succ k => omega

/-- Two toggles left and the events that take them, then nothing. -/
def lastTwo : Inputs := fun k => if k < 2 then some (.compareMatch 0) else none

theorem lastTwo_after (s : State) (k : Nat) : trajectory s lastTwo (2 + k) = trajectory s lastTwo 2 := by
  induction k with
  | zero => rfl
  | succ k ih => rw [← ih]; exact trajectory_none (if_neg (show ¬ 2 + k < 2 by omega))

/-- A slot with two toggles left, whose events come at the first two instants: the run is over after them. -/
theorem witness_FairDiscreteRunEndsByItself :
    let s := board (slot0 .running .discrete 6 2) run0 []
    s.Inv ∧ s.owner 0 = some 0 ∧ (s.ch 0).runState = .running ∧ (s.ch 0).mode = .discrete ∧
    (s.ch 0).pulseRemaining.toNat = 2 ∧ (s.timer 0).cmie = 1 ∧ (s.timer 0).cs ≠ 0 ∧ Admissible s lastTwo ∧
    HostLeaves s lastTwo 0 := by
  refine ⟨?_, rfl, rfl, rfl, rfl, by decide, by decide, ⟨?_, ?_⟩, ?_, ?_⟩
  · refine board_inv (by decide) (by decide) (by simp) (fun _ => ?_) (fun _ => by decide) (by simp)
    exact ⟨by decide, by decide, ⟨⟨1, 1⟩, by decide, by decide⟩, by decide, by decide⟩
  · intro k t h
    unfold lastTwo at h
    split at h
    · rename_i hk
      cases h
      rcases k with _ | _ | k
      · decide
      · decide
      · omega
    · cases h
  · intro t k h
    refine absurd ?_ (h (2 + k) (by omega))
    rw [lastTwo_after]
    have hend : (trajectory (board (slot0 .running .discrete 6 2) run0 []) lastTwo 2).timers =
        [⟨0x01, 0x00, 0x00, 7999, 0x00, 0x01, false⟩, TimerRegs.zero, TimerRegs.zero] := by decide
    unfold State.timer
    rw [hend]
    rcases t.toNat with _ | _ | _ | n <;> rfl
  · intro k p h
    unfold lastTwo at h
    split at h <;> cases h
  · intro k w h
    unfold lastTwo at h
    split at h <;> cases h

/-- Continuous mode: an event of timer 0 at every instant. -/
theorem witness_FairRunningTimerHasEventsForEver :
    let s := board (slot0 .running .continuous 0 0) { run0 with imr := 0x00 } []
    let input : Inputs := fun _ => some (.compareMatch 0)
    s.Inv ∧ (s.timer 0).cs ≠ 0 ∧ (s.timer 0).cmie = 0 ∧ s.owner 0 = some 0 ∧ (s.ch 0).mode ≠ .discrete ∧
    Admissible s input ∧ HostLeaves s input 0 := by
  have hrun : ∀ k, ∃ out, trajectory (board (slot0 .running .continuous 0 0) { run0 with imr := 0x00 } [])
      (fun _ => some (.compareMatch 0)) k =
        board (slot0 .running .continuous 0 0) { run0 with imr := 0x00, out := out } [] := by
    intro k
    induction k with
    | zero => exact ⟨false, rfl⟩
    | succ k ih =>
      obtain ⟨out, ih⟩ := ih
      refine ⟨!out, ?_⟩
      rw [trajectory_event rfl, ih]
      cases out <;> rfl
  refine ⟨?_, by decide, by decide, rfl, by decide, ⟨?_, ?_⟩, ?_, ?_⟩
  · refine board_inv (by decide) (by decide) (by simp) (fun _ => ?_) (by simp) (by simp)
    exact ⟨by decide, by decide, ⟨⟨1, 1⟩, by decide, by decide⟩, by decide, by decide⟩
  · intro k t h
    cases h
    obtain ⟨out, hk⟩ := hrun k
    rw [hk, board_timer]
    cases out <;> decide
  · intro t k h
    refine ⟨k, Nat.le_refl k, ?_⟩
    by_cases ht : t = 0
    · rw [ht]
    · obtain ⟨out, hk⟩ := hrun k
      refine absurd ?_ (h k (Nat.le_refl k))
      rw [hk, board_timer, if_neg ht]
      rfl
  · intro k p h
    cases h
  · intro k w h
    cases h

/-- The board before each of the four kinds of transition: a successful GENERATE in either mode, a STOP, the last
event. -/
theorem witness_StateMachineFollowsTheTransitionTable :
    ∃ s1 s2 s3 s4,
      step (board (slot0 .idle .stopped 0 0) quiet0 [.command 0x020001000003E800000003]) = .next s1 ∧
      step (board (slot0 .idle .stopped 0 0) quiet0 [.command 0x020002000003E800000000]) = .next s2 ∧
      step (board (slot0 .running .discrete 6 6) run0 [.command 0x0400000000000000000000]) = .next s3 ∧
      step (board (slot0 .running .discrete 6 1) run0 [.compareMatch 0]) = .next s4 ∧
      s1.trace.getLast? = some (.response 0x00010000) ∧ s2.trace.getLast? = some (.response 0x00010000) ∧
      decode 0x020001000003E800000003 = .ok (.generate 0 0x01 1000 3) ∧
      decode 0x020002000003E800000000 = .ok (.generate 0 0x02 1000 0) ∧
      decode 0x0400000000000000000000 = .ok (.stop 0) ∧
      ((running.ch 0).runState = .idle ↔ (running.ch 0).mode = .stopped) ∧
      (0 : Byte).toNat < running.cfg.nCh ∧ (running.timer 0).cs ≠ 0 ∧ (running.timer 0).cmie = 1 ∧
      running.owner 0 = some 0 ∧ (running.ch 0).mode = .discrete ∧
      (slot0 .running .discrete 6 1).pulseRemaining.toNat = 1 ∧
      (∀ platform rest, (board (slot0 .running .discrete 6 1) run0 [.compareMatch 0]).schedule ≠ .rst platform :: rest) := by
  refine ⟨_, _, _, _, rfl, rfl, rfl, rfl, ?_, ?_, ?_, ?_, ?_, ?_, ?_, ?_, ?_, ?_, ?_, ?_, fun _ _ h => by cases h⟩ <;>
    decide

theorem witness_EveryStepKeepsTheInvariants :
    ∃ s', (board (slot0 .idle .stopped 0 0) quiet0 [.command 0x020001000003E800000003]).Inv ∧
      step (board (slot0 .idle .stopped 0 0) quiet0 [.command 0x020001000003E800000003]) = .next s' :=
  ⟨_, idle_inv _ (by simp), rfl⟩

theorem witness_InvariantsHoldAfterReset : Config.exampleBoard.Ok ∧ LaunchPremise [TimerRegs.zero] :=
  ⟨by decide, by simp [LaunchPremise]⟩

theorem witness_CommandTouchesOnlyItsChannelAndTimer : idle.Sized := ⟨rfl, rfl, rfl⟩

theorem witness_ReservedRegisterBitsAreNeverWritten :
    ∃ s', step (board (slot0 .running .discrete 6 6) { run0 with imr := 0xFF } [.command 0x0400000000000000000000]) =
        .next s' ∧
      (∀ platform rest, (board (slot0 .running .discrete 6 6) { run0 with imr := 0xFF }
        [.command 0x0400000000000000000000]).schedule ≠ .rst platform :: rest) :=
  ⟨_, rfl, fun _ _ h => by cases h⟩

theorem witness_RegisterWriteChangesOnlyMaskedBits :
    (2 : Byte).toNat < running.timers.length ∧ 15 < TReg.ocr.bits ∧ 7 < TReg.cra.bits ∧ TReg.cra ≠ .ocr := by decide

end Sys2Proof.Tests
end

section
/-! The rules the proofs of the state family (10_state.md) share: a change of one slot's run and one timer's registers,
given by the two functions applied, and what a command writes to a timer. -/

namespace Sys2Proof.Machine

/-! ### One slot and one timer changed -/

/-- `f` applied to slot `c`, `g` to the registers of timer `t`, the record then being `tr`: the common form of the
closed forms of `startRun`, `retime`, `doStop` and `bindTimer`. -/
def State.change (s : State) (c t : Byte) (f : Channel → Channel) (g : TimerRegs → TimerRegs) (tr : List Output) :
    State :=
  { s with channels := s.channels.modify c.toNat f, timers := s.timers.modify t.toNat g, trace := tr }

variable {s s' : State} {c t : Byte} {f : Channel → Channel} {g : TimerRegs → TimerRegs} {tr : List Output}

theorem change_ch (s : State) (c t e : Byte) (f : Channel → Channel) (g : TimerRegs → TimerRegs) (tr : List Output) :
    (s.change c t f g tr).ch e = if c = e ∧ c.toNat < s.channels.length then f (s.ch e) else s.ch e :=
  ch_updCh s c e f

theorem change_timer (s : State) (c t u : Byte) (f : Channel → Channel) (g : TimerRegs → TimerRegs)
    (tr : List Output) :
    (s.change c t f g tr).timer u = if t = u ∧ t.toNat < s.timers.length then g (s.timer u) else s.timer u := by
  simp only [State.timer, State.change, getD_modify, BitVec.toNat_inj]

theorem countDown_eq_change (s : State) (c t : Byte) :
    s.countDown c = s.change c t (fun r => { r with pulseRemaining := r.pulseRemaining - 1 }) id s.trace := by
  rw [State.change, List.modify_id]
  rfl

theorem flipOut_eq_change (s : State) (c t : Byte) : s.flipOut t = s.change c t id TimerRegs.toggle s.trace := by
  rw [State.change, List.modify_id]
  rfl

/-- The last count with its `do_stop`, as one change (R126, R159). -/
theorem countDown_doStop_eq_change (h : (s.ch c).timerIdentity = some t) :
    (s.countDown c).doStop c = s.change c t
      (fun r => { r with pulseRemaining := r.pulseRemaining - 1, runState := .idle, mode := .stopped })
      TimerRegs.halted (s.trace ++ haltWrites t) := by
  have hid : ((s.countDown c).ch c).timerIdentity = some t := by
    rw [countDown_ch, if_pos ⟨rfl, lt_of_identity h⟩]
    exact h
  rw [doStop_valid hid]
  simp only [State.change, State.countDown, State.updCh, List.modify_modify_eq, Function.comp_def]

/-! ### The clock select, the compare value and the other fields after a procedure's writes -/

theorem computeTiming_some {cfg : Config} {f : Nat} {w : Width} {tm : Timing} (h : computeTiming cfg f w = some tm) :
    (∃ p ∈ prescalers cfg w, p.selector = tm.selector) ∧ tm.compareValue ≤ maxCompareValue w := by
  obtain ⟨before, p, after, hl, -, hfit, rfl⟩ := searchPrescalers_some h
  have hq := ((fitsCounter_iff _ _).mp hfit).2
  exact ⟨⟨p, by simp [hl], rfl⟩, Nat.sub_le_sub_right hq 1⟩

theorem ocr_le_maxCompareValue {n : Nat} {w : Width} (h : n ≤ maxCompareValue w) :
    (BitVec.ofNat 16 n).toNat ≤ maxCompareValue w := by
  rw [BitVec.toNat_ofNat]
  exact (Nat.mod_le _ _).trans h

theorem retimed_cs (r : TimerRegs) (tm : Timing) : (r.retimed tm).cs = tm.selector := by
  have hclear : (r.crb &&& 0xF8).extractLsb' 0 3 = 0 := (halted_quiet r).2.1
  show ((r.crb &&& 0xF8) ||| tm.selector.setWidth 8).extractLsb' 0 3 = tm.selector
  rw [BitVec.extractLsb'_or, hclear, selector_cs]
  exact BitVec.zero_or

/-- The interrupt enable after a GENERATE of a timer that was masked (R122 step 5). -/
theorem programmed_cmie (r : TimerRegs) (tm : Timing) :
    (r.programmed 0x01 tm).cmie = 1 ∧ (r.programmed 0x00 tm).cmie = r.cmie := by
  have hset : ∀ x : Byte, (x ||| 0x01).extractLsb' 0 1 = 1 := by decide
  have hkeep : ∀ x : Byte, (x ||| 0x00).extractLsb' 0 1 = x.extractLsb' 0 1 := by decide
  exact ⟨hset r.imr, hkeep r.imr⟩

theorem programmed_isProgrammed {r : TimerRegs} {enable : Byte} {tm : Timing} {cfg : Config} {n : Nat} {w : Width}
    {m : Mode} (htm : computeTiming cfg n w = some tm)
    (hm : (r.programmed enable tm).cmie = 1 ↔ m = .discrete) : (r.programmed enable tm).Programmed cfg w m := by
  obtain ⟨⟨p, hp, hsel⟩, hle⟩ := computeTiming_some htm
  have hwm : (0x41 : Byte).extractLsb' 0 1 = 1 := by decide
  have hpa : pinAction 0x41 = paToggleOnMatch := by decide
  exact ⟨hpa, hwm, ⟨p, hp, hsel.trans (selector_cs _).symm⟩, ocr_le_maxCompareValue hle, hm⟩

theorem retimed_isProgrammed {r : TimerRegs} {tm : Timing} {cfg : Config} {n : Nat} {w : Width} {m : Mode}
    (h : r.Programmed cfg w m) (htm : computeTiming cfg n w = some tm) : (r.retimed tm).Programmed cfg w m := by
  obtain ⟨hpa, hwm, -, -, hcmie⟩ := h
  obtain ⟨⟨p, hp, hsel⟩, hle⟩ := computeTiming_some htm
  exact ⟨hpa, hwm, ⟨p, hp, hsel.trans (retimed_cs r tm).symm⟩, ocr_le_maxCompareValue hle, hcmie⟩

/-- The output unit is no part of I4. -/
theorem toggle_isProgrammed {r : TimerRegs} {cfg : Config} {w : Width} {m : Mode} (h : r.Programmed cfg w m) :
    r.toggle.Programmed cfg w m := by
  unfold TimerRegs.toggle
  split <;> exact h

/-! ### What a command writes to a timer -/

/-- The four ways a command changes the registers of a timer (R90, R122, R126, R127). -/
inductive TimerRegs.CommandWrites (r : TimerRegs) : TimerRegs → Prop where
  | bound : r.CommandWrites { r with ddr := r.ddr ||| 0x01 }
  | programmed (enable : Byte) (tm : Timing) (h : enable = 0x00 ∨ enable = 0x01) :
      r.CommandWrites (r.programmed enable tm)
  | retimed (tm : Timing) : r.CommandWrites (r.retimed tm)
  | halted : r.CommandWrites r.halted

/-- `i` names an existing slot, and in `s'` that slot is bound to timer `u`. (In a state of the wrong sizes a slot below
`N_CH` can be missing from the list, so the binding is claimed of a slot in the list.) -/
def NamesSlotOf (s : State) (i : Instr) (s' : State) (u : Byte) : Prop :=
  ∃ c, i.slot = some c ∧ s.hasSlot c = true ∧ (c.toNat < s.channels.length → (s'.ch c).timerIdentity = some u)

theorem namesSlotOf_of_sized {i : Instr} {u : Byte} (hs : s.Sized) (h : NamesSlotOf s i s' u) :
    ∃ c, i.slot = some c ∧ (s'.ch c).timerIdentity = some u := by
  obtain ⟨c, hi, hslot, hid⟩ := h
  exact ⟨c, hi, hid (hs.1 ▸ of_decide_eq_true hslot)⟩

/-- From `s` to `s'` the registers of timer `u` are as before, or the command `i` wrote them, whose slot is bound to
`u`. -/
def WritesOwnTimer (s : State) (i : Instr) (s' : State) (u : Byte) : Prop :=
  s'.timer u = s.timer u ∨ (NamesSlotOf s i s' u ∧ (s.timer u).CommandWrites (s'.timer u))

theorem writesOwnTimer_respond {i : Instr} {u a b : Byte} {d : Half} :
    WritesOwnTimer s i (s'.respond a b d) u ↔ WritesOwnTimer s i s' u := Iff.rfl

theorem change_writesOwnTimer {i : Instr} (hi : i.slot = some c) (slot : s.hasSlot c = true)
    (hf : (f (s.ch c)).timerIdentity = some t) (hg : ∀ r : TimerRegs, r.CommandWrites (g r)) (u : Byte) :
    WritesOwnTimer s i (s.change c t f g tr) u := by
  unfold WritesOwnTimer
  rw [change_timer]
  split
  · rename_i hu
    obtain ⟨rfl, -⟩ := hu
    refine Or.inr ⟨⟨c, hi, slot, fun hc => ?_⟩, hg _⟩
    rw [change_ch, if_pos ⟨rfl, hc⟩]
    exact hf
  · exact Or.inl rfl

/-- A command writes no timer but the one its slot is bound to (R29, R105). -/
theorem effect_writesOwnTimer {i : Instr} (h : Effect s i s') (u : Byte) : WritesOwnTimer s i s' u := by
  cases h with
  | illegal | isrunning | isvalid | geterror | solveFails | solves | bindFails | generateFails | updateFails =>
    exact Or.inl rfl
  | binds c p t w slot =>
    rw [writesOwnTimer_respond, bindTimer_eq]
    exact change_writesOwnTimer (s := s.setOwner t c) rfl slot rfl (fun _ => .bound) u
  | starts c m f n t md tm slot h =>
    rw [writesOwnTimer_respond]
    obtain ⟨hid, -, -, hm, -⟩ := generateVerdict_ok h
    rcases hm with ⟨-, rfl, -⟩ | ⟨-, rfl⟩
    · rw [(startRun_eq s c t tm n).1]
      exact change_writesOwnTimer rfl slot hid (fun _ => .programmed _ _ (Or.inr rfl)) u
    · rw [(startRun_eq s c t tm n).2]
      exact change_writesOwnTimer rfl slot hid (fun _ => .programmed _ _ (Or.inl rfl)) u
  | retimes c f t tm slot h =>
    rw [writesOwnTimer_respond, retime_eq]
    exact change_writesOwnTimer rfl slot (updateVerdict_ok h).1 (fun _ => .retimed tm) u
  | stops c slot =>
    rw [writesOwnTimer_respond]
    cases hid : (s.ch c).timerIdentity with
    | none => exact Or.inl (by rw [doStop_invalid hid, timer_updCh])
    | some t =>
      rw [doStop_valid hid]
      exact change_writesOwnTimer rfl slot hid (fun _ => .halted) u

/-- Only a CONSTRUCT writes the registry, and only the entry of the timer it binds its slot to (R93). -/
theorem effect_registry {i : Instr} (h : Effect s i s') : s'.registry = s.registry ∨
    ∃ c p t, i = .construct c p ∧ NamesSlotOf s i s' t ∧ s'.registry = s.registry.set t.toNat (some c) := by
  cases h with
  | illegal | isrunning | isvalid | geterror | solveFails | solves | bindFails | generateFails | updateFails =>
    exact Or.inl rfl
  | binds c p t w slot =>
    refine Or.inr ⟨c, p, t, rfl, ⟨c, rfl, slot, fun hc => ?_⟩, by rw [respond_registry, bindTimer_eq]⟩
    rw [ch_respond, bindTimer_ch, if_pos ⟨rfl, hc⟩]
  | starts c m f n t md tm slot h =>
    obtain ⟨-, -, -, hm, -⟩ := generateVerdict_ok h
    rcases hm with ⟨-, rfl, -⟩ | ⟨-, rfl⟩
    · rw [(startRun_eq s c t tm n).1]; exact Or.inl rfl
    · rw [(startRun_eq s c t tm n).2]; exact Or.inl rfl
  | retimes c f t tm => rw [retime_eq]; exact Or.inl rfl
  | stops c => exact Or.inl (doStop_frame s c).2.1

/-- A timer that the command's slot is not bound to keeps its registers and its owner (R29, R105). -/
theorem effect_elsewhere {i : Instr} (hs : s.Sized) (h : Effect s i s') {t : Byte}
    (ht : ∀ c, i.slot = some c → (s'.ch c).timerIdentity ≠ some t) :
    s'.timer t = s.timer t ∧ s'.owner t = s.owner t := by
  have hno : ¬ NamesSlotOf s i s' t := fun hn => by
    obtain ⟨c, hi, hid⟩ := namesSlotOf_of_sized hs hn
    exact ht c hi hid
  constructor
  · exact (effect_writesOwnTimer h t).resolve_right (fun hw => hno hw.1)
  · rcases effect_registry h with hr | ⟨c, p, u, -, hn, hr⟩
    · rw [State.owner, State.owner, hr]
    · have hut : u ≠ t := fun hut => hno (hut ▸ hn)
      rw [State.owner, State.owner, hr, getD_set, if_neg (fun hu => hut (BitVec.eq_of_toNat_eq hu.1))]

/-! ### Reserved bits -/

/-- From `r` to `r'` the bits PTO never writes are as before, no latch was set and no direction cleared (R32, R34,
R35). -/
structure TimerRegs.KeepsReserved (r r' : TimerRegs) : Prop where
  imr : r'.imr &&& 0xFE = r.imr &&& 0xFE
  port : r'.port &&& 0xFE = r.port &&& 0xFE
  ddr : r'.ddr &&& 0xFE = r.ddr &&& 0xFE
  latch : r'.latch = 1 → r.latch = 1
  direction : r.direction = 1 → r'.direction = 1

theorem keepsReserved_refl (r : TimerRegs) : r.KeepsReserved r := ⟨rfl, rfl, rfl, id, id⟩

theorem keepsReserved_trans {a b r : TimerRegs} (hab : a.KeepsReserved b) (hbr : b.KeepsReserved r) :
    a.KeepsReserved r :=
  ⟨hbr.imr.trans hab.imr, hbr.port.trans hab.port, hbr.ddr.trans hab.ddr, hab.latch ∘ hbr.latch,
    hbr.direction ∘ hab.direction⟩

theorem toggle_keepsReserved (r : TimerRegs) : r.KeepsReserved r.toggle := by
  unfold TimerRegs.toggle
  split
  · exact ⟨rfl, rfl, rfl, id, id⟩
  · exact keepsReserved_refl r

theorem commandWrites_keepsReserved {r r' : TimerRegs} (h : r.CommandWrites r') : r.KeepsReserved r' := by
  have hset : ∀ x : Byte, (x ||| 0x01) &&& 0xFE = x &&& 0xFE := by decide
  have hclear : ∀ x : Byte, (x &&& 0xFE) &&& 0xFE = x &&& 0xFE := by decide
  have hlatch : ∀ x : Byte, (x &&& 0xFE).extractLsb' 0 1 ≠ 1 := by decide
  have hdir : ∀ x : Byte, (x ||| 0x01).extractLsb' 0 1 = 1 := by decide
  cases h with
  | bound => exact ⟨rfl, rfl, hset r.ddr, id, fun _ => hdir r.ddr⟩
  | programmed enable tm he =>
    have himr : (r.imr ||| enable) &&& 0xFE = r.imr &&& 0xFE := by
      rcases he with rfl | rfl
      · exact congrArg (· &&& 0xFE) BitVec.or_zero
      · exact hset r.imr
    exact ⟨himr, rfl, rfl, id, id⟩
  | retimed => exact ⟨rfl, rfl, rfl, id, id⟩
  | halted => exact ⟨hclear r.imr, hclear r.port, rfl, fun h => absurd h (hlatch r.port), id⟩

theorem effect_keepsReserved {i : Instr} (h : Effect s i s') (u : Byte) :
    (s.timer u).KeepsReserved (s'.timer u) := by
  rcases effect_writesOwnTimer h u with hsame | ⟨-, hw⟩
  · rw [hsame]
    exact keepsReserved_refl _
  · exact commandWrites_keepsReserved hw

theorem change_keepsReserved (hg : ∀ r : TimerRegs, r.KeepsReserved (g r)) (u : Byte) :
    (s.timer u).KeepsReserved ((s.change c t f g tr).timer u) := by
  rw [change_timer]
  split
  · exact hg _
  · exact keepsReserved_refl _

theorem doStop_keepsReserved (s : State) (c u : Byte) : (s.timer u).KeepsReserved ((s.doStop c).timer u) := by
  cases hid : (s.ch c).timerIdentity with
  | none =>
    rw [doStop_invalid hid]
    exact keepsReserved_refl _
  | some t =>
    rw [doStop_valid hid]
    exact change_keepsReserved (fun r => commandWrites_keepsReserved (.halted (r := r))) u

theorem handleInterrupt_keepsReserved (s : State) (c u : Byte) :
    (s.timer u).KeepsReserved ((s.handleInterrupt c).timer u) := by
  rcases handleInterrupt_cases s c with ⟨-, h⟩ | ⟨-, -, h⟩ | ⟨-, -, h⟩ <;> rw [h]
  · exact keepsReserved_refl _
  · exact keepsReserved_refl _
  · exact doStop_keepsReserved (s.countDown c) c u

theorem flipOut_keepsReserved (s : State) (t u : Byte) : (s.timer u).KeepsReserved ((s.flipOut t).timer u) := by
  rw [flipOut_eq_change s 0 t]
  exact change_keepsReserved toggle_keepsReserved u

theorem compareMatch_keepsReserved (s : State) (t u : Byte) :
    (s.timer u).KeepsReserved ((s.compareMatch t).timer u) := by
  rcases compareMatch_cases s t with ⟨-, h⟩ | ⟨-, -, h⟩ | ⟨c, -, -, -, h⟩ <;> rw [h]
  · exact keepsReserved_refl _
  · exact flipOut_keepsReserved s t u
  · exact keepsReserved_trans (flipOut_keepsReserved s t u) (handleInterrupt_keepsReserved _ c u)

/-- Every step but a reset (R32, R34, R35). -/
theorem step_keepsReserved (h : step s = .next s') (hrst : ∀ platform rest, s.schedule ≠ .rst platform :: rest)
    (u : Byte) : (s.timer u).KeepsReserved (s'.timer u) := by
  rcases step_cases h with ⟨-, rfl⟩ | ⟨w, rest, -, -, rfl⟩ | ⟨w, rest, i, -, -, he⟩ | ⟨t, rest, -, rfl⟩ |
    ⟨p, rest, hs, -⟩
  · exact keepsReserved_refl _
  · exact keepsReserved_refl _
  · exact effect_keepsReserved he u
  · exact compareMatch_keepsReserved { s with schedule := rest } t u
  · exact absurd hs (hrst p rest)

end Sys2Proof.Machine

open Sys2Proof Sys2Proof.Machine

/-- Settles O48: a command's effects touch other slots, timers and owners nowhere. -/
theorem commandTouchesOnlyItsChannelAndTimer : Obligations.CommandTouchesOnlyItsChannelAndTimer := by
  intro s i hs
  obtain ⟨s', hexec, he⟩ := exec_effect i s
  obtain ⟨hcfg, hsched⟩ := effect_frame he
  refine ⟨s', hexec, hcfg, hsched, fun d hd => effect_others he hd, fun t ht => effect_elsewhere hs he ht, fun hi => ?_⟩
  exact (effect_registry he).resolve_right (fun ⟨c, p, _, hc, _⟩ => hi c p hc)

/-- Settles O49, by the writes of the commands and of the handler. -/
theorem reservedRegisterBitsAreNeverWritten : Obligations.ReservedRegisterBitsAreNeverWritten := by
  intro s s' t h hrst
  obtain ⟨himr, hport, hddr, hlatch, hdir⟩ := step_keepsReserved h hrst t
  exact ⟨himr, hport, hddr, hlatch, hdir⟩

end

section
/-! The invariants of R39: what they say of one slot and of the timer it is bound to, the changes that keep them, and
that reset establishes and every step keeps them. -/

namespace Sys2Proof.Machine

/-! ### The invariants, slot by slot -/

/-- What the invariants say of a slot by itself (I1, I3, I5 of R39). -/
structure Channel.RunOk (r : Channel) : Prop where
  idleIffStopped : r.runState = .idle ↔ r.mode = .stopped
  invalidIdle : r.timerIdentity = none → r.runState = .idle
  discreteCount : r.mode = .discrete →
    1 ≤ r.pulseRemaining.toNat ∧ r.pulseRemaining.toNat ≤ r.pulseTarget.toNat ∧
      r.pulseTarget.toNat % 2 = 0 ∧ 2 ≤ r.pulseTarget.toNat

/-- What they say of the timer of a slot, unless it is shared (I2 and I4 of R39). -/
structure TimerRegs.Serves (r : TimerRegs) (cfg : Config) (x : Channel) : Prop where
  quiet : x.runState = .idle → r.Quiet
  programmed : x.runState = .running → r.Programmed cfg x.counterWidth x.mode

/-- `a` has the binding of `b` (R92). -/
structure Channel.SameBinding (a b : Channel) : Prop where
  identity : a.timerIdentity = b.timerIdentity
  bound : b.timerIdentity ≠ none →
    a.constructed = b.constructed ∧ a.pin = b.pin ∧ a.counterWidth = b.counterWidth

/-- `a` has the run state, the mode and the counters of `b`. -/
structure Channel.SameRun (a b : Channel) : Prop where
  runState : a.runState = b.runState
  mode : a.mode = b.mode
  target : a.pulseTarget = b.pulseTarget
  remaining : a.pulseRemaining = b.pulseRemaining

variable {s s' : State} {c t : Byte} {f : Channel → Channel} {g : TimerRegs → TimerRegs} {tr : List Output}

theorem sameBinding_of {a b : Channel} (identity : a.timerIdentity = b.timerIdentity)
    (constructed : a.constructed = b.constructed) (pin : a.pin = b.pin) (width : a.counterWidth = b.counterWidth) :
    a.SameBinding b := ⟨identity, fun _ => ⟨constructed, pin, width⟩⟩

theorem sameBinding_refl (r : Channel) : r.SameBinding r := sameBinding_of rfl rfl rfl rfl

theorem runOk_of_same {a b : Channel} (h : b.RunOk) (binding : a.SameBinding b) (run : a.SameRun b) : a.RunOk := by
  obtain ⟨hstate, hmode, htarget, hremaining⟩ := run
  exact ⟨by rw [hstate, hmode]; exact h.idleIffStopped, by rw [hstate, binding.identity]; exact h.invalidIdle,
    by rw [hmode, htarget, hremaining]; exact h.discreteCount⟩

theorem State.Inv.runOk (h : s.Inv) (c : Byte) : (s.ch c).RunOk :=
  ⟨h.idleIffStopped c, h.invalidIdle c, h.discreteCount c⟩

theorem State.Inv.serves (h : s.Inv) (hu : s.Unshared) (hid : (s.ch c).timerIdentity = some t) :
    (s.timer t).Serves s.cfg (s.ch c) := ⟨h.idleQuiet hu c t hid, h.runningProgrammed hu c t hid⟩

theorem State.Inv.slot_lt (h : s.Inv) (slot : s.hasSlot c = true) : c.toNat < s.channels.length :=
  h.sized.1 ▸ of_decide_eq_true slot

/-- A timer that a slot is bound to exists. -/
theorem State.Inv.timer_lt (h : s.Inv) (hid : (s.ch c).timerIdentity = some t) : t.toNat < s.timers.length :=
  h.sized.2.2 ▸ lookupPin_lt h.cfgOk (h.boundByTable c t hid)

/-! ### Changes that keep the bindings -/

/-- What such a change leaves: configuration, registry, sizes, every slot's binding, every direction, and no stimulus
added. -/
structure KeepsBindings (s s' : State) : Prop where
  cfg : s'.cfg = s.cfg
  registry : s'.registry = s.registry
  channelsLength : s'.channels.length = s.channels.length
  timersLength : s'.timers.length = s.timers.length
  schedule : ∀ x ∈ s'.schedule, x ∈ s.schedule
  binding : ∀ c, (s'.ch c).SameBinding (s.ch c)
  direction : ∀ t, (s'.timer t).direction = (s.timer t).direction

/-- With the bindings kept, the invariants are kept when each slot, each bound timer and each unbound one is as they
say. -/
theorem State.Inv.of_keepsBindings (h : s.Inv) (k : KeepsBindings s s') (run : ∀ c, (s'.ch c).RunOk)
    (serves : s.Unshared → ∀ c t, (s.ch c).timerIdentity = some t → (s'.timer t).Serves s.cfg (s'.ch c))
    (unbound : ∀ t, (∀ c, (s.ch c).timerIdentity ≠ some t) → (s'.timer t).Quiet) : s'.Inv := by
  have hid : ∀ c, (s'.ch c).timerIdentity = (s.ch c).timerIdentity := fun c => (k.binding c).identity
  have hunshared : s'.Unshared → s.Unshared := fun hu c₁ c₂ t h₁ h₂ =>
    hu c₁ c₂ t ((hid c₁).trans h₁) ((hid c₂).trans h₂)
  have hbound : ∀ c, (s'.ch c).timerIdentity ≠ none → (s'.ch c).constructed = (s.ch c).constructed ∧
      (s'.ch c).pin = (s.ch c).pin ∧ (s'.ch c).counterWidth = (s.ch c).counterWidth :=
    fun c hc => (k.binding c).bound (hid c ▸ hc)
  have howner : ∀ t, s'.owner t = s.owner t := fun t => by rw [State.owner, k.registry]; rfl
  exact {
    cfgOk := k.cfg ▸ h.cfgOk
    sized := by
      rw [State.Sized, k.cfg, k.registry, k.channelsLength, k.timersLength]
      exact h.sized
    idleIffStopped := fun c => (run c).idleIffStopped
    idleQuiet := fun hu c t hc => (serves (hunshared hu) c t (hid c ▸ hc)).quiet
    boundIsOutput := fun c t hc => (k.direction t).trans (h.boundIsOutput c t (hid c ▸ hc))
    invalidIdle := fun c => (run c).invalidIdle
    runningProgrammed := fun hu c t hc => k.cfg ▸ (serves (hunshared hu) c t (hid c ▸ hc)).programmed
    discreteCount := fun c => (run c).discreteCount
    validConstructed := fun c hc => (hbound c hc).1.trans (h.validConstructed c (hid c ▸ hc))
    boundByTable := fun c t hc => by
      obtain ⟨-, hpin, hwidth⟩ := hbound c (by simp [hc])
      rw [k.cfg, hpin, hwidth]
      exact h.boundByTable c t (hid c ▸ hc)
    registryConsistent := fun t c hc => (hid c).trans (h.registryConsistent t c (howner t ▸ hc))
    boundIsOwned := fun c t hc => howner t ▸ h.boundIsOwned c t (hid c ▸ hc)
    unboundQuiet := fun t ht => unbound t (fun c hc => ht c ((hid c).trans hc))
    resetsMeetPremise := fun p hp => h.resetsMeetPremise p (k.schedule _ hp) }

/-- No invariant reads the record. -/
theorem State.Inv.respond (h : s.Inv) (a b : Byte) (d : Half) : (s.respond a b d).Inv :=
  h.of_keepsBindings ⟨rfl, rfl, rfl, rfl, fun _ => id, fun _ => sameBinding_refl _, fun _ => rfl⟩ h.runOk
    (fun hu _ _ => h.serves hu) h.unboundQuiet

/-- A stimulus taken from the schedule. -/
theorem State.Inv.takeStimulus {x : Stimulus} {rest : List Stimulus} (h : s.Inv) (hs : s.schedule = x :: rest) :
    ({ s with schedule := rest } : State).Inv :=
  h.of_keepsBindings
    ⟨rfl, rfl, rfl, rfl, fun _ hx => hs ▸ List.mem_cons_of_mem x hx, fun _ => sameBinding_refl _, fun _ => rfl⟩ h.runOk
    (fun hu _ _ => h.serves hu) h.unboundQuiet

/-- A write of a slot that leaves its binding and its run (the error flag, a failing CONSTRUCT). -/
theorem State.Inv.updCh (h : s.Inv) (binding : (f (s.ch c)).SameBinding (s.ch c))
    (run : (f (s.ch c)).SameRun (s.ch c)) : (s.updCh c f).Inv := by
  have hsame : ∀ e, ((s.updCh c f).ch e).SameBinding (s.ch e) ∧ ((s.updCh c f).ch e).SameRun (s.ch e) := by
    intro e
    rw [ch_updCh]
    split
    · rename_i he
      obtain ⟨rfl, -⟩ := he
      exact ⟨binding, run⟩
    · exact ⟨sameBinding_refl _, rfl, rfl, rfl, rfl⟩
  refine h.of_keepsBindings ⟨rfl, rfl, List.length_modify .., rfl, fun _ => id, fun e => (hsame e).1, fun _ => rfl⟩
    (fun e => runOk_of_same (h.runOk e) (hsame e).1 (hsame e).2) (fun hu e t he => ?_) h.unboundQuiet
  obtain ⟨hbinding, hstate, hmode, -, -⟩ := hsame e
  obtain ⟨-, -, hwidth⟩ := hbinding.bound (by simp [he])
  constructor
  · rw [hstate]
    exact (h.serves hu he).quiet
  · rw [hstate, hmode, hwidth]
    exact (h.serves hu he).programmed

/-- A change of a bound slot's run and of its timer's registers keeps the invariants when the slot and (unless it is
shared) the timer are then as they say. -/
theorem State.Inv.change (h : s.Inv) (bound : (s.ch c).timerIdentity = some t)
    (binding : (f (s.ch c)).SameBinding (s.ch c)) (direction : (g (s.timer t)).direction = (s.timer t).direction)
    (run : (f (s.ch c)).RunOk) (serves : s.Unshared → (g (s.timer t)).Serves s.cfg (f (s.ch c))) :
    (s.change c t f g tr).Inv := by
  have hch : ∀ e, (s.change c t f g tr).ch e = if c = e then f (s.ch e) else s.ch e := fun e => by
    simp only [change_ch, lt_of_identity bound, and_true]
  have htimer : ∀ u, (s.change c t f g tr).timer u = if t = u then g (s.timer u) else s.timer u := fun u => by
    simp only [change_timer, h.timer_lt bound, and_true]
  refine h.of_keepsBindings
    ⟨rfl, rfl, List.length_modify .., List.length_modify .., fun _ => id, fun e => ?_, fun u => ?_⟩
    (fun e => ?_) (fun hu e u he => ?_) (fun u hu => ?_)
  · rw [hch]
    split
    · rename_i hce
      exact hce ▸ binding
    · exact sameBinding_refl _
  · rw [htimer]
    split
    · rename_i htu
      exact htu ▸ direction
    · rfl
  · rw [hch]
    split
    · rename_i hce
      exact hce ▸ run
    · exact h.runOk e
  · rw [hch, htimer]
    by_cases hce : c = e
    · subst hce
      have htu : t = u := Option.some.inj (bound.symm.trans he)
      subst htu
      rw [if_pos rfl, if_pos rfl]
      exact serves hu
    · have htu : t ≠ u := fun htu => hce (hu c e u (htu ▸ bound) he)
      rw [if_neg hce, if_neg htu]
      exact h.serves hu he
  · rw [htimer, if_neg (fun htu : t = u => hu c (htu ▸ bound))]
    exact h.unboundQuiet u hu

/-! ### The commands and the event -/

theorem State.Inv.fail (h : s.Inv) (c : Byte) (e : ErrorKind) : (s.fail c e).Inv :=
  (h.updCh (sameBinding_of rfl rfl rfl rfl) ⟨rfl, rfl, rfl, rfl⟩).respond _ _ _

/-- An unconstructed slot has no timer (I6 of R39). -/
theorem State.Inv.identity_of_fresh (h : s.Inv) (fresh : (s.ch c).constructed = false) :
    (s.ch c).timerIdentity = none := by
  by_contra hid
  exact Bool.false_ne_true (fresh.symm.trans (h.validConstructed c hid))

theorem State.Inv.bindInvalid (h : s.Inv) (fresh : (s.ch c).constructed = false) (p : Byte) :
    (s.bindInvalid c p).Inv := by
  have hid := h.identity_of_fresh fresh
  exact h.updCh ⟨hid.symm, fun hne => absurd hid hne⟩ ⟨rfl, rfl, rfl, rfl⟩

/-- A slot that is stopped, its timer halted. -/
theorem runOk_stopped {r : Channel} (hstate : r.runState = .idle) (hmode : r.mode = .stopped) : r.RunOk :=
  ⟨by simp [hstate, hmode], fun _ => hstate, by simp [hmode]⟩

theorem halted_serves {cfg : Config} {x : Channel} (r : TimerRegs) (h : x.runState = .idle) : r.halted.Serves cfg x :=
  ⟨fun _ => halted_quiet r, by simp [h]⟩

theorem State.Inv.doStop (h : s.Inv) (c : Byte) : (s.doStop c).Inv := by
  cases hid : (s.ch c).timerIdentity with
  | none =>
    have hidle := h.invalidIdle c hid
    rw [doStop_invalid hid]
    exact h.updCh (sameBinding_of rfl rfl rfl rfl) ⟨hidle.symm, ((h.idleIffStopped c).mp hidle).symm, rfl, rfl⟩
  | some t =>
    rw [doStop_valid hid]
    exact h.change hid (sameBinding_of rfl rfl rfl rfl) rfl (runOk_stopped rfl rfl) (fun _ => halted_serves _ rfl)

theorem togglesOf_toNat (n : Word) : (togglesOf n).toNat = 2 * n.toNat := by
  rw [togglesOf, BitVec.toNat_ofNat]
  omega

theorem State.Inv.startRun (h : s.Inv) {m : Byte} {x n : Word} {md : Mode} {tm : Timing}
    (hv : generateVerdict s.cfg (s.ch c) m x n = .ok (t, md, tm)) : (s.startRun c t md tm n).Inv := by
  obtain ⟨hid, hnotRunning, -, hm, htm⟩ := generateVerdict_ok hv
  have hidle : (s.ch c).runState = .idle := by
    cases hrs : (s.ch c).runState with
    | idle => rfl
    | running => exact absurd hrs hnotRunning
  have hsome : (s.ch c).timerIdentity ≠ none := by simp [hid]
  rcases hm with ⟨-, rfl, hn⟩ | ⟨-, rfl⟩
  · have hpos : 1 ≤ n.toNat := Nat.one_le_iff_ne_zero.mpr (fun h0 => hn (BitVec.eq_of_toNat_eq h0))
    have hcount := togglesOf_toNat n
    rw [(startRun_eq s c t tm n).1]
    refine h.change hid (sameBinding_of rfl rfl rfl rfl) rfl ⟨by simp, fun hc => absurd hc hsome, fun _ => ?_⟩
      (fun _ => ⟨by simp, fun _ => programmed_isProgrammed htm ?_⟩)
    · refine ⟨?_, le_refl _, ?_, ?_⟩ <;> simp only [hcount] <;> omega
    · exact ⟨fun _ => rfl, fun _ => (programmed_cmie (s.timer t) tm).1⟩
  · rw [(startRun_eq s c t tm n).2]
    refine h.change hid (sameBinding_of rfl rfl rfl rfl) rfl ⟨by simp, fun hc => absurd hc hsome, by simp⟩
      (fun hu => ⟨by simp, fun _ => programmed_isProgrammed htm ?_⟩)
    obtain ⟨-, -, hmasked, -, -⟩ := h.idleQuiet hu c t hid hidle
    rw [(programmed_cmie (s.timer t) tm).2, hmasked]
    exact ⟨fun h01 => absurd h01 (by decide), fun hmode => by cases hmode⟩

theorem State.Inv.retime (h : s.Inv) {x : Word} {tm : Timing} (hv : updateVerdict s.cfg (s.ch c) x = .ok (t, tm)) :
    (s.retime c t tm).Inv := by
  obtain ⟨hid, hrunning, -, htm⟩ := updateVerdict_ok hv
  rw [retime_eq]
  refine h.change hid (sameBinding_of rfl rfl rfl rfl) rfl ⟨h.idleIffStopped c, h.invalidIdle c, h.discreteCount c⟩
    (fun hu => ⟨by simp [hrunning], fun _ => ?_⟩)
  exact retimed_isProgrammed ((h.serves hu hid).programmed hrunning) htm

theorem bindTimer_owner (s : State) (c p t u : Byte) (w : Width) : (s.bindTimer c p t w).owner u =
    if t = u ∧ t.toNat < s.registry.length then some c else s.owner u := by
  rw [bindTimer_eq]
  exact owner_setOwner s t c u

theorem bindTimer_timer (s : State) (c p t u : Byte) (w : Width) : (s.bindTimer c p t w).timer u =
    if t = u ∧ t.toNat < s.timers.length then { s.timer u with ddr := (s.timer u).ddr ||| 0x01 } else s.timer u := by
  simp only [bindTimer_eq, State.timer, getD_modify, BitVec.toNat_inj]

theorem bindTimer_sized {p : Byte} {w : Width} (h : s.Sized) : (s.bindTimer c p t w).Sized := by
  rw [bindTimer_eq]
  obtain ⟨hch, hreg, htim⟩ := h
  exact ⟨(List.length_modify ..).trans hch, List.length_set.trans hreg, (List.length_modify ..).trans htim⟩

/-- A CONSTRUCT leaves a slot that has a timer. -/
theorem bindTimer_ch_of_bound (h : s.Inv) (fresh : (s.ch c).constructed = false) {p e u : Byte} {w : Width}
    (he : (s.ch e).timerIdentity = some u) : (s.bindTimer c p t w).ch e = s.ch e := by
  have hce : c ≠ e := fun hce => by simp [← hce, h.identity_of_fresh fresh] at he
  rw [bindTimer_ch, if_neg (fun hc => hce hc.1)]

section BindTimer

variable {p : Byte} {w : Width} (h : s.Inv) (slot : s.hasSlot c = true) (fresh : (s.ch c).constructed = false)

include h slot

theorem bindTimer_ch_self : (s.bindTimer c p t w).ch c = { s.ch c with
    constructed := true, pin := p, timerIdentity := some t, counterWidth := w, lastError := .none } := by
  rw [bindTimer_ch, if_pos ⟨rfl, h.slot_lt slot⟩]

theorem bindTimer_runOk (e : Byte) : ((s.bindTimer c p t w).ch e).RunOk := by
  by_cases hce : c = e
  · subst hce
    rw [bindTimer_ch_self h slot]
    exact ⟨h.idleIffStopped c, by simp, h.discreteCount c⟩
  · rw [bindTimer_ch, if_neg (fun hc => hce hc.1)]
    exact h.runOk e

include fresh

/-- After a CONSTRUCT the new slot is bound, and every slot that was. -/
theorem bindTimer_identity (e u : Byte) : ((s.bindTimer c p t w).ch e).timerIdentity = some u ↔
    (c = e ∧ t = u) ∨ (s.ch e).timerIdentity = some u := by
  by_cases hce : c = e
  · subst hce
    rw [bindTimer_ch_self h slot]
    simp [h.identity_of_fresh fresh]
  · rw [bindTimer_ch, if_neg (fun hc => hce hc.1)]
    simp [hce]

theorem bindTimer_serves (hu : (s.bindTimer c p t w).Unshared) {e u : Byte}
    (he : ((s.bindTimer c p t w).ch e).timerIdentity = some u) :
    ((s.bindTimer c p t w).timer u).Serves s.cfg ((s.bindTimer c p t w).ch e) := by
  have hid := bindTimer_identity h slot fresh (t := t) (p := p) (w := w)
  have hself : ((s.bindTimer c p t w).ch c).timerIdentity = some t := (hid c t).mpr (Or.inl ⟨rfl, rfl⟩)
  have hfresh := h.identity_of_fresh fresh
  rcases (hid e u).mp he with ⟨rfl, rfl⟩ | hold
  · -- Nobody had the timer, or it would now be shared: it is as the launch premise left it, but for its direction.
    have hquiet : (s.timer t).Quiet := h.unboundQuiet t (fun d hd => by
      have hdc := hu d c t ((hid d t).mpr (Or.inr hd)) hself
      simp [hdc, hfresh] at hd)
    have hidle : (s.ch c).runState = .idle := h.invalidIdle c hfresh
    rw [bindTimer_ch_self h slot, bindTimer_timer]
    refine ⟨fun _ => ?_, fun hrun => by simp [hidle] at hrun⟩
    split <;> exact hquiet
  · have htu : t ≠ u := fun htu => by
      have hce := hu c e u (htu ▸ hself) he
      simp [← hce, hfresh] at hold
    rw [bindTimer_ch_of_bound h fresh hold, bindTimer_timer, if_neg (fun hc => htu hc.1)]
    exact h.serves (fun c₁ c₂ v h₁ h₂ => hu c₁ c₂ v ((hid c₁ v).mpr (Or.inr h₁)) ((hid c₂ v).mpr (Or.inr h₂))) hold

end BindTimer

theorem State.Inv.bindTimer (h : s.Inv) {p : Byte} {w : Width} (slot : s.hasSlot c = true)
    (fresh : (s.ch c).constructed = false) (hp : lookupPin s.cfg p = some (t, w)) : (s.bindTimer c p t w).Inv := by
  have hcfg : (s.bindTimer c p t w).cfg = s.cfg := by rw [bindTimer_eq]
  have hid := bindTimer_identity h slot fresh (t := t) (p := p) (w := w)
  have hself : ((s.bindTimer c p t w).ch c).timerIdentity = some t := (hid c t).mpr (Or.inl ⟨rfl, rfl⟩)
  have howner : ∀ u, (s.bindTimer c p t w).owner u = if t = u then some c else s.owner u := fun u => by
    simp only [bindTimer_owner, h.sized.2.1, lookupPin_lt h.cfgOk hp, and_true]
  have htimer : ∀ u, (s.bindTimer c p t w).timer u =
      if t = u then { s.timer u with ddr := (s.timer u).ddr ||| 0x01 } else s.timer u := fun u => by
    simp only [bindTimer_timer, h.sized.2.2, lookupPin_lt h.cfgOk hp, and_true]
  have hrun : ∀ e, ((s.bindTimer c p t w).ch e).RunOk := bindTimer_runOk h slot
  exact {
    cfgOk := hcfg ▸ h.cfgOk
    sized := bindTimer_sized h.sized
    idleIffStopped := fun e => (hrun e).idleIffStopped
    idleQuiet := fun hu e u he => (bindTimer_serves h slot fresh hu he).quiet
    boundIsOutput := fun e u he => by
      have hset : ∀ x : Byte, (x ||| 0x01).extractLsb' 0 1 = 1 := by decide
      rw [htimer]
      rcases (hid e u).mp he with ⟨-, rfl⟩ | hold
      · rw [if_pos rfl]
        exact hset _
      · split
        · exact hset _
        · exact h.boundIsOutput e u hold
    invalidIdle := fun e => (hrun e).invalidIdle
    runningProgrammed := fun hu e u he => hcfg ▸ (bindTimer_serves h slot fresh hu he).programmed
    discreteCount := fun e => (hrun e).discreteCount
    validConstructed := fun e he => by
      obtain ⟨u, he⟩ := Option.ne_none_iff_exists'.mp he
      rcases (hid e u).mp he with ⟨rfl, -⟩ | hold
      · rw [bindTimer_ch_self h slot]
      · rw [bindTimer_ch_of_bound h fresh hold]
        exact h.validConstructed e (by simp [hold])
    boundByTable := fun e u he => by
      rw [hcfg]
      rcases (hid e u).mp he with ⟨rfl, rfl⟩ | hold
      · rw [bindTimer_ch_self h slot]
        exact hp
      · rw [bindTimer_ch_of_bound h fresh hold]
        exact h.boundByTable e u hold
    registryConsistent := fun u d hd => by
      rw [howner] at hd
      split at hd
      · rename_i htu
        cases hd
        exact htu ▸ hself
      · exact (hid d u).mpr (Or.inr (h.registryConsistent u d hd))
    boundIsOwned := fun e u he => by
      rw [howner]
      rcases (hid e u).mp he with ⟨-, rfl⟩ | hold
      · simp
      · split
        · simp
        · exact h.boundIsOwned e u hold
    unboundQuiet := fun u hu => by
      rw [htimer, if_neg (fun htu : t = u => hu c (htu ▸ hself))]
      exact h.unboundQuiet u (fun e he => hu e ((hid e u).mpr (Or.inr he)))
    resetsMeetPremise := by rw [bindTimer_eq]; exact h.resetsMeetPremise }

theorem State.Inv.flipOut (h : s.Inv) (hcs : (s.timer t).cs ≠ 0) : (s.flipOut t).Inv := by
  have hbound : ∃ c, (s.ch c).timerIdentity = some t := by
    by_contra hno
    exact hcs (h.unboundQuiet t (fun c hc => hno ⟨c, hc⟩)).2.1
  obtain ⟨c, hid⟩ := hbound
  rw [flipOut_eq_change s c t]
  refine h.change hid (sameBinding_of rfl rfl rfl rfl) (toggle_direction _) (h.runOk c)
    (fun hu => ⟨fun hidle => ?_, fun hrun => ?_⟩)
  · exact absurd ((h.serves hu hid).quiet hidle).2.1 hcs
  · exact toggle_isProgrammed ((h.serves hu hid).programmed hrun)

theorem State.Inv.handleInterrupt (h : s.Inv) (c : Byte) : (s.handleInterrupt c).Inv := by
  rcases handleInterrupt_cases s c with ⟨-, hk⟩ | ⟨⟨hrun, hmode, hpos⟩, hne, hk⟩ | ⟨⟨hrun, -, -⟩, -, hk⟩ <;> rw [hk]
  · exact h
  all_goals
    obtain ⟨t, hid⟩ : ∃ t, (s.ch c).timerIdentity = some t := Option.ne_none_iff_exists'.mp
      (fun hno => by simp [h.invalidIdle c hno] at hrun)
  · obtain ⟨h1, hle, heven, htwo⟩ := h.discreteCount c hmode
    have hcount : 1 ≤ ((s.ch c).pulseRemaining - 1).toNat ∧
        ((s.ch c).pulseRemaining - 1).toNat ≤ (s.ch c).pulseTarget.toNat := by
      bv_omega
    rw [countDown_eq_change s c t]
    exact h.change hid (sameBinding_of rfl rfl rfl rfl) rfl
      ⟨h.idleIffStopped c, h.invalidIdle c, fun _ => ⟨hcount.1, hcount.2, heven, htwo⟩⟩
      (fun hu => ⟨(h.serves hu hid).quiet, (h.serves hu hid).programmed⟩)
  · rw [countDown_doStop_eq_change hid]
    exact h.change hid (sameBinding_of rfl rfl rfl rfl) rfl (runOk_stopped rfl rfl) (fun _ => halted_serves _ rfl)

theorem State.Inv.compareMatch (h : s.Inv) (t : Byte) : (s.compareMatch t).Inv := by
  rcases compareMatch_cases s t with ⟨-, hk⟩ | ⟨hcs, -, hk⟩ | ⟨c, hcs, -, -, hk⟩ <;> rw [hk]
  · exact h
  · exact h.flipOut hcs
  · exact (h.flipOut hcs).handleInterrupt c

theorem State.Inv.effect {i : Instr} (h : s.Inv) (he : Effect s i s') : s'.Inv := by
  cases he with
  | illegal | isrunning | isvalid | geterror | solveFails | solves => exact h.respond _ _ _
  | bindFails c p slot fresh => exact (h.bindInvalid fresh p).fail c _
  | binds c p t w slot fresh hp => exact (h.bindTimer slot fresh hp).respond _ _ _
  | generateFails c m f n e => exact h.fail c e
  | starts c m f n t md tm slot hv => exact (h.startRun hv).respond _ _ _
  | updateFails c f e => exact h.fail c e
  | retimes c f t tm slot hv => exact (h.retime hv).respond _ _ _
  | stops c => exact (h.doStop c).respond _ _ _

/-! ### Reset and the step -/

theorem zero_quiet : TimerRegs.zero.Quiet := by
  unfold TimerRegs.Quiet
  decide

theorem restart_inv {p : List TimerRegs} (hcfg : s.cfg.Ok) (hp : LaunchPremise p)
    (hr : ∀ q, Stimulus.rst q ∈ s.schedule → LaunchPremise q) : (s.restart p).Inv := by
  have hch : ∀ c, (s.restart p).ch c = Channel.initial := launch_ch s.cfg p
  have howner : ∀ t, (s.restart p).owner t = none := launch_owner s.cfg p
  have htimer : ∀ t, (s.restart p).timer t = TimerRegs.zero := launch_premise_timer hp
  have hid : ∀ c, ((s.restart p).ch c).timerIdentity = none := fun c => by rw [hch]; rfl
  have hinit : Channel.initial.RunOk := ⟨by decide, fun _ => rfl, by decide⟩
  have hrun : ∀ c, ((s.restart p).ch c).RunOk := fun c => hch c ▸ hinit
  exact {
    cfgOk := hcfg
    sized := ⟨by simp, by simp, by simp⟩
    idleIffStopped := fun c => (hrun c).idleIffStopped
    idleQuiet := fun _ c t h => by simp [hid] at h
    boundIsOutput := fun c t h => by simp [hid] at h
    invalidIdle := fun c => (hrun c).invalidIdle
    runningProgrammed := fun _ c t h => by simp [hid] at h
    discreteCount := fun c => (hrun c).discreteCount
    validConstructed := fun c h => absurd (hid c) h
    boundByTable := fun c t h => by simp [hid] at h
    registryConsistent := fun t c h => by simp [howner] at h
    boundIsOwned := fun c t h => by simp [hid] at h
    unboundQuiet := fun t _ => htimer t ▸ zero_quiet
    resetsMeetPremise := hr }

/-- The state after reset is one a reset of it gives again. -/
theorem launch_inv {cfg : Config} {p : List TimerRegs} (hcfg : cfg.Ok) (hp : LaunchPremise p) :
    (State.launch cfg p).Inv :=
  restart_inv (s := State.launch cfg p) hcfg hp (fun _ h => absurd h List.not_mem_nil)

theorem State.Inv.step (h : s.Inv) (hs : step s = .next s') : s'.Inv := by
  rcases step_cases hs with ⟨-, rfl⟩ | ⟨w, rest, hx, -, rfl⟩ | ⟨w, rest, i, hx, -, he⟩ | ⟨t, rest, hx, rfl⟩ |
    ⟨p, rest, hx, rfl⟩
  · exact h
  · exact (h.takeStimulus hx).respond _ _ _
  · exact (h.takeStimulus hx).effect he
  · exact (h.takeStimulus hx).compareMatch t
  · have hp : LaunchPremise p := h.resetsMeetPremise p (by simp [hx])
    exact restart_inv h.cfgOk hp (h.takeStimulus hx).resetsMeetPremise

end Sys2Proof.Machine

open Sys2Proof Sys2Proof.Machine

/-- Settles O11, by what each accessor reads after a launch. -/
theorem launchStateHasTheResetValues : Obligations.LaunchStateHasTheResetValues := by
  intro cfg platform
  have hsized : (State.launch cfg platform).Sized := by
    simp [State.Sized, State.launch]
  exact ⟨hsized, launch_ch cfg platform, launch_owner cfg platform, fun hp t => launch_premise_timer hp t, rfl⟩

/-- Settles O46: the example board meets the premises of R6 to R10, and no platform register is named. -/
theorem invariantsHoldAfterReset : Obligations.InvariantsHoldAfterReset := by
  have hboard : Config.exampleBoard.Ok := by decide
  exact ⟨fun _ _ => launch_inv, launch_inv hboard (fun _ h => absurd h List.not_mem_nil)⟩

/-- Settles O45, by cases of the stimulus and of the command's effect. -/
theorem everyStepKeepsTheInvariants : Obligations.EveryStepKeepsTheInvariants :=
  fun _ _ h hs => h.step hs

end

section
/-! The rules of the timer register space (20_memory.md): one register of an identity read after a masked write (R54),
and the state with its timer registers erased, with which everything PTO does commutes (R55). -/

namespace Sys2Proof.Machine

/-! ### One register read after a masked write -/

theorem lowByte_getLsbD (h : Half) {i : Nat} (hi : i < 8) : (lowByte h).getLsbD i = h.getLsbD i := by
  simp [lowByte, hi]

/-- The masked merge of an 8-bit register, read as the interface reads it, with zeros above. -/
theorem mergeBits_lowByte_getLsbD (old : Byte) (value mask : Half) {i : Nat} (hi : i < 8) :
    ((mergeBits old (lowByte value) (lowByte mask)).setWidth 16).getLsbD i =
      if mask.getLsbD i then value.getLsbD i else (old.setWidth 16).getLsbD i := by
  have hi16 : i < 16 := by omega
  simp only [BitVec.getLsbD_setWidth, hi16, decide_true, Bool.true_and, mergeBits_getLsbD _ _ _ i hi,
    lowByte_getLsbD _ hi]

theorem get_write_getLsbD (r : TimerRegs) (reg : TReg) (value mask : Half) {i : Nat} (hi : i < reg.bits) :
    ((r.write reg value mask).get reg).getLsbD i =
      if mask.getLsbD i then value.getLsbD i else (r.get reg).getLsbD i := by
  cases reg with
  | ocr => exact mergeBits_getLsbD r.ocr value mask i hi
  | cra | crb | imr | port | ddr => exact mergeBits_lowByte_getLsbD _ value mask hi

theorem get_write_of_ne (r : TimerRegs) {reg other : TReg} (value mask : Half) (h : other ≠ reg) :
    (r.write reg value mask).get other = r.get other := by
  cases reg <;> cases other
  case cra.cra | crb.crb | imr.imr | ocr.ocr | port.port | ddr.ddr => exact absurd rfl h
  all_goals rfl

theorem write_idem (r : TimerRegs) (reg : TReg) (value mask : Half) :
    (r.write reg value mask).write reg value mask = r.write reg value mask := by
  cases reg with
  | cra =>
    simp only [TimerRegs.write, mergeBits_idem]
    split <;> rfl
  | crb | imr | ocr | port | ddr => simp only [TimerRegs.write, mergeBits_idem]

/-! ### The state without its timer registers -/

/-- All that PTO may look at (R55): the state, every timer register erased. -/
def State.withoutTimers (s : State) : State := { s with timers := [] }

variable (s : State) (c t : Byte)

/-! What a decision is taken from is still there. -/

@[simp] theorem withoutTimers_cfg : s.withoutTimers.cfg = s.cfg := rfl
@[simp] theorem ch_withoutTimers : s.withoutTimers.ch c = s.ch c := rfl
@[simp] theorem hasSlot_withoutTimers : s.withoutTimers.hasSlot c = s.hasSlot c := rfl

/-! Each operation does to the erased state what it does to the state, erased. -/

@[simp] theorem updCh_withoutTimers (f : Channel → Channel) :
    s.withoutTimers.updCh c f = (s.updCh c f).withoutTimers := rfl

@[simp] theorem setOwner_withoutTimers : s.withoutTimers.setOwner t c = (s.setOwner t c).withoutTimers := rfl

@[simp] theorem respond_withoutTimers (a b : Byte) (d : Half) :
    s.withoutTimers.respond a b d = (s.respond a b d).withoutTimers := rfl

@[simp] theorem illegal_withoutTimers : s.withoutTimers.illegal = s.illegal.withoutTimers := rfl

@[simp] theorem fail_withoutTimers (e : ErrorKind) : s.withoutTimers.fail c e = (s.fail c e).withoutTimers := rfl

@[simp] theorem bindInvalid_withoutTimers (p : Byte) :
    s.withoutTimers.bindInvalid c p = (s.bindInvalid c p).withoutTimers := rfl

@[simp] theorem tregWrite_withoutTimers (reg : TReg) (value mask : Half) :
    s.withoutTimers.tregWrite t reg value mask = (s.tregWrite t reg value mask).withoutTimers := by
  simp [State.withoutTimers, State.tregWrite]

@[simp] theorem doStop_withoutTimers : s.withoutTimers.doStop c = (s.doStop c).withoutTimers := by
  cases h : (s.ch c).timerIdentity with
  | none => simp [State.doStop, h]
  | some t => simp [State.doStop, State.haltTimer, h]

@[simp] theorem bindTimer_withoutTimers (p : Byte) (w : Width) :
    s.withoutTimers.bindTimer c p t w = (s.bindTimer c p t w).withoutTimers := by
  simp only [State.bindTimer, updCh_withoutTimers, setOwner_withoutTimers, tregWrite_withoutTimers]

@[simp] theorem startRun_withoutTimers (m : Mode) (tm : Timing) (n : Word) :
    s.withoutTimers.startRun c t m tm n = (s.startRun c t m tm n).withoutTimers := by
  cases m <;>
    simp only [State.startRun, State.programTimer, State.armCount, State.selectClock, updCh_withoutTimers,
      tregWrite_withoutTimers]

@[simp] theorem retime_withoutTimers (tm : Timing) :
    s.withoutTimers.retime c t tm = (s.retime c t tm).withoutTimers := by
  simp only [State.retime, State.selectClock, updCh_withoutTimers, tregWrite_withoutTimers]

/-- The handler (R159). -/
theorem handleInterrupt_withoutTimers :
    s.withoutTimers.handleInterrupt c = (s.handleInterrupt c).withoutTimers := by
  simp only [State.handleInterrupt, ch_withoutTimers, updCh_withoutTimers, doStop_withoutTimers]
  split
  · split <;> rfl
  · rfl

/-- The guard every command begins with (R74): refused alike, or served alike. -/
theorem guard_withoutTimers {refused : Bool} {s s' : State} {meaning erased : Host.Outcome State Fault Refusal}
    (h : (if refused then .next s.illegal else meaning) = .next s')
    (hserved : meaning = .next s' → erased = .next s'.withoutTimers) :
    (if refused then .next s.withoutTimers.illegal else erased) = .next s'.withoutTimers := by
  cases refused with
  | true =>
    cases h
    rfl
  | false => exact hserved h

/-- Every command: its checks are taken from what is left of the state, its writes are blind (R55). -/
theorem exec_withoutTimers {i : Instr} {s s' : State} (h : exec i s = .next s') :
    exec i s.withoutTimers = .next s'.withoutTimers := by
  cases i with
  | construct c p =>
    refine guard_withoutTimers h (fun h => ?_)
    split at h <;> rename_i hpin <;> cases h <;> simp [hpin]
  | generate c m f n =>
    refine guard_withoutTimers h (fun h => ?_)
    split at h <;> rename_i hverdict <;> cases h <;> simp [hverdict]
  | updatefreq c f =>
    refine guard_withoutTimers h (fun h => ?_)
    split at h <;> rename_i hverdict <;> cases h <;> simp [hverdict]
  | stop c =>
    refine guard_withoutTimers h (fun h => ?_)
    cases h
    simp
  | isrunning c | isvalid c | geterror c =>
    refine guard_withoutTimers h (fun h => ?_)
    cases h
    rfl
  | solve w f =>
    simp only [exec, execSolve] at h ⊢
    split at h
    · cases h
      simp
    · split at h <;> rename_i hverdict <;> cases h <;> simp [hverdict]

/-- Two states that differ in timer registers alone have the rest in common. -/
theorem same_of_withoutTimers_eq {a b : State} (h : a.withoutTimers = b.withoutTimers) :
    a.channels = b.channels ∧ a.registry = b.registry ∧ a.trace = b.trace :=
  ⟨(congrArg State.channels h :), (congrArg State.registry h :), (congrArg State.trace h :)⟩

end Sys2Proof.Machine

open Sys2Proof Sys2Proof.Machine

/-- Settles O47: commands and handler commute with the erasure of the timer registers, so what they make of two states
that differ in them alone is the same once erased. -/
theorem ptoNeverReadsATimerRegister : Obligations.PtoNeverReadsATimerRegister := by
  intro s others
  have herased : s.withoutTimers = ({ s with timers := others } : State).withoutTimers := rfl
  refine ⟨fun i => ?_, fun c => ?_⟩
  · obtain ⟨a, ha, -⟩ := exec_effect i s
    obtain ⟨b, hb, -⟩ := exec_effect i { s with timers := others }
    refine ⟨a, b, ha, hb, same_of_withoutTimers_eq ?_⟩
    have hab := exec_withoutTimers ha
    rw [herased, exec_withoutTimers hb] at hab
    exact (Host.Outcome.next.inj hab).symm
  · refine same_of_withoutTimers_eq ?_
    rw [← handleInterrupt_withoutTimers, herased, handleInterrupt_withoutTimers]

/-- Settles O50, by the masked merge on each register. -/
theorem registerWriteChangesOnlyMaskedBits : Obligations.RegisterWriteChangesOnlyMaskedBits := by
  intro s t reg value mask ht s'
  have hself : s'.timer t = (s.timer t).write reg value mask := by
    rw [timer_tregWrite, if_pos ⟨rfl, ht⟩]
  refine ⟨fun i hi => ?_, fun other hne => ?_, fun u hu => ?_, ?_, rfl, rfl⟩
  · rw [hself, get_write_getLsbD _ _ _ _ hi]
  · rw [hself, get_write_of_ne _ _ _ hne]
  · rw [timer_tregWrite, if_neg (fun h => hu h.1.symm)]
  · have hidem : (fun r : TimerRegs => (r.write reg value mask).write reg value mask) =
        (fun r => r.write reg value mask) := funext fun r => write_idem r reg value mask
    simp only [s', tregWrite_timers, List.modify_modify_eq, Function.comp_def, hidem]

end

section
/-! The command word both ways (R70, R71, R73): a word decodes to a command exactly when it is that command's
encoding, and some command exactly when a row of the opcode table spells it. -/

namespace Sys2Proof

/-- The fields read back are the packed ones, the opcode selects its own arm, and the must-be-zero check passes. -/
theorem decode_encode (i : Instr) : decode (encode i) = .ok i := by
  simp only [decode]
  cases i with
  | generate => simp [encode, opField_pack, chField_pack, argField_pack, freqField_pack, countField_pack]
  | construct | updatefreq | stop | isrunning | isvalid | geterror | solve =>
    simp [encode, opField_pack, chField_pack, argField_pack, freqField_pack, countField_pack, requireZero_ok]

/-- In the arm taken, the opcode and the zero fields are known, and the other fields are the command's operands. -/
theorem encode_of_decode {w : CommandWord} {i : Instr} (h : decode w = .ok i) : encode i = w := by
  rw [← pack_fields w]
  simp only [decode] at h
  split_ifs at h
  on_goal 2 => -- GENERATE requires no field to be zero
    cases h
    simp only [encode, *]
  all_goals
    obtain ⟨hzero, rfl⟩ := requireZero_ok.mp h
    simp only [List.forall_mem_cons, beq_iff_eq] at hzero
    simp only [encode, *]

/-- One word per command, one command per word that decodes. -/
theorem decode_eq_ok_iff {w : CommandWord} {i : Instr} : decode w = .ok i ↔ encode i = w :=
  ⟨encode_of_decode, fun h => h ▸ decode_encode i⟩

/-! ### The opcode table -/

/-- All ones, or no bit: the part of a table row's mask that stands over a field it fixes, or leaves open (R73). -/
def fieldMask (n : Nat) (fixed : Bool) : BitVec n := if fixed then BitVec.allOnes n else 0

/-- A field of a word in a format that fixes it to zero, or leaves it open (R71). -/
def formatField {n : Nat} (fixed : Bool) (x : BitVec n) : BitVec n := if fixed then 0 else x

theorem formatField_of_masked {n : Nat} {fixed : Bool} {x : BitVec n} (h : x &&& fieldMask n fixed = 0) :
    formatField fixed x = x := by
  cases fixed with
  | false => rfl
  | true => exact h.symm.trans BitVec.and_allOnes

/-- The encoding of a command has the spelling of the row with its mnemonic, whichever command it is. -/
theorem encode_spells_row (i : Instr) : Laws.Spelling.Statement i := by
  cases i with
  | construct ch pin => exact Laws.Spelling.construct ch pin
  | generate ch mode freq count => exact Laws.Spelling.generate ch mode freq count
  | updatefreq ch freq => exact Laws.Spelling.updatefreq ch freq
  | stop ch => exact Laws.Spelling.stop ch
  | isrunning ch => exact Laws.Spelling.isrunning ch
  | isvalid ch => exact Laws.Spelling.isvalid ch
  | geterror ch => exact Laws.Spelling.geterror ch
  | solve wcode freq => exact Laws.Spelling.solve wcode freq

/-- A word with a row's spelling is the pack of the row's opcode, of zero in the fields the row fixes, and of the fields
it leaves open (R73). -/
theorem pack_of_spells {w : CommandWord} {r : OpcodeRow} (h : w &&& r.mask = r.pattern) (op : Byte)
    (ch arg freq count : Bool)
    (hmask : r.mask =
      pack (fieldMask 8 true) (fieldMask 8 ch) (fieldMask 8 arg) (fieldMask 32 freq) (fieldMask 32 count))
    (hpattern : r.pattern = pack op 0 0 0 0) :
    pack op (formatField ch (chField w)) (formatField arg (argField w)) (formatField freq (freqField w))
      (formatField count (countField w)) = w := by
  rw [← pack_fields w, hmask, hpattern, pack_and, pack_inj] at h
  obtain ⟨hop, hch, harg, hfreq, hcount⟩ := h
  have hop : opField w = op := BitVec.and_allOnes.symm.trans hop
  rw [formatField_of_masked hch, formatField_of_masked harg, formatField_of_masked hfreq, formatField_of_masked hcount,
    ← hop, pack_fields]

/-- A word with a row's spelling is the encoding of the row's command, on the fields the row leaves open. -/
theorem exists_encode_of_spells {w : CommandWord} {r : OpcodeRow} (hr : r ∈ opcodeTable)
    (h : w &&& r.mask = r.pattern) : ∃ i : Instr, i.mnemonic = r.mnemonic ∧ encode i = w := by
  simp only [opcodeTable, List.mem_cons, List.not_mem_nil, or_false] at hr
  rcases hr with rfl | rfl | rfl | rfl | rfl | rfl | rfl | rfl
  · exact ⟨.construct _ _, rfl, pack_of_spells h 0x01 false false true true (by decide) (by decide)⟩
  · exact ⟨.generate _ _ _ _, rfl, pack_of_spells h 0x02 false false false false (by decide) (by decide)⟩
  · exact ⟨.updatefreq _ _, rfl, pack_of_spells h 0x03 false true false true (by decide) (by decide)⟩
  · exact ⟨.stop _, rfl, pack_of_spells h 0x04 false true true true (by decide) (by decide)⟩
  · exact ⟨.isrunning _, rfl, pack_of_spells h 0x05 false true true true (by decide) (by decide)⟩
  · exact ⟨.isvalid _, rfl, pack_of_spells h 0x06 false true true true (by decide) (by decide)⟩
  · exact ⟨.geterror _, rfl, pack_of_spells h 0x07 false true true true (by decide) (by decide)⟩
  · exact ⟨.solve _ _, rfl, pack_of_spells h 0x08 true false false true (by decide) (by decide)⟩

end Sys2Proof

open Sys2Proof Sys2Proof.Machine

/-- Settles O2, by the command's constructor. -/
theorem decodeOfEncodeIsTheCommand : Obligations.DecodeOfEncodeIsTheCommand := decode_encode

/-- Settles O3: the word is the pack of its fields, and the decoder's checks fix those its format does not use. -/
theorem encodeOfDecodeIsTheWord : Obligations.EncodeOfDecodeIsTheWord := fun _ _ => encode_of_decode

/-- Settles O4: a word that decodes is an encoding, which its own row spells; a word that a row spells is the encoding
of that row's command. -/
theorem decodeFollowsTheOpcodeTable : Obligations.DecodeFollowsTheOpcodeTable := by
  intro w m
  constructor
  · rintro ⟨i, hdecode, rfl⟩
    obtain ⟨r, hr, hm, hspells⟩ := encode_spells_row i
    rw [encode_of_decode hdecode, OpcodeRow.spells, beq_iff_eq] at hspells
    exact ⟨r, hr, hm, hspells⟩
  · rintro ⟨r, hr, rfl, hspells⟩
    obtain ⟨i, hm, hencode⟩ := exists_encode_of_spells hr hspells
    exact ⟨i, decode_eq_ok_iff.mpr hencode, hm⟩

/-- Settles O1: each word, evaluated. -/
theorem workedExampleWordsDecode : Obligations.WorkedExampleWordsDecode := by
  unfold Obligations.WorkedExampleWordsDecode
  decide

end

section
/-! The illegal command (R74), the response word (R75), and what a step leaves for the observer: register writes in
rule order, then the one response of a command (R59, R79). -/

namespace Sys2Proof.Machine

variable {s u : State}

/-! ### Illegal words -/

theorem hasSlot_eq_false {c : Byte} : s.hasSlot c = false ↔ s.cfg.nCh ≤ c.toNat := by
  simp [State.hasSlot]

theorem requestedWidth_eq_none {wcode : Byte} : requestedWidth wcode = none ↔ wcode ≠ 0x08 ∧ wcode ≠ 0x10 := by
  unfold requestedWidth
  split_ifs with h8 h16
  · simp [h8]
  · simp [h16]
  · exact iff_of_true rfl ⟨h8, h16⟩

/-- Of an encoded command only the value checks (c), (d), (e) of R74 can fail. -/
theorem illegalWord_encode {i : Instr} : IllegalWord s (encode i) ↔ IllegalOperands s i := by
  cases i <;>
    simp [IllegalWord, IllegalOperands, encode, opField_pack, chField_pack, argField_pack, freqField_pack,
      countField_pack, Instr.slot, hasSlot_eq_false, requestedWidth_eq_none]

theorem exec_illegalOperands {i : Instr} (h : IllegalOperands s i) : exec i s = .next s.illegal := by
  obtain ⟨c, hc, hslot⟩ | ⟨c, p, rfl, hconstructed⟩ | ⟨wcode, f, rfl, hwidth⟩ := h
  · cases i <;> cases hc <;>
      simp [exec, execConstruct, execGenerate, execUpdatefreq, execStop, execIsrunning, execIsvalid, execGeterror,
        hslot]
  · simp [exec, execConstruct, hconstructed]
  · simp [exec, execSolve, hwidth]

/-- An illegal word is refused by the decoder (R74 a, b) or by the command it spells (R74 c, d, e), with one answer. -/
theorem runCommand_illegalWord {w : CommandWord} (h : IllegalWord s w) : runCommand w s = .next s.illegal := by
  unfold runCommand
  split
  · rfl
  · rename_i i hdecode
    rw [← encode_of_decode hdecode, illegalWord_encode] at h
    exact exec_illegalOperands h

theorem step_cons {x : Stimulus} {rest : List Stimulus} (h : s.schedule = x :: rest) :
    step s = serve x { s with schedule := rest } := by
  rw [step, h]

theorem step_command {w : CommandWord} {rest : List Stimulus} (h : s.schedule = .command w :: rest) :
    step s = runCommand w { s with schedule := rest } := step_cons h

theorem runCommand_of_decode {w : CommandWord} {i : Instr} (h : decode w = .ok i) : runCommand w s = exec i s := by
  rw [runCommand, h]

theorem step_withFetchWord (s : State) (nbits w : Nat) :
    step (s.withFetchWord nbits w) = runCommand (tableWord nbits w) s := rfl

theorem decode_of_decodeTableWord {nbits w : Nat} {i : Instr} (h : decodeTableWord nbits w = some i) :
    decode (tableWord nbits w) = .ok i := by
  unfold decodeTableWord at h
  cases hd : decode (tableWord nbits w) with
  | error e => rw [hd] at h; cases h
  | ok j => rw [hd] at h; cases h; rfl

/-! ### Register writes in the record -/

/-- From `s` to `u` the record has grown by register writes only. -/
def AddsWrites (s u : State) : Prop :=
  ∃ writes : List Output, (∀ o ∈ writes, ∃ t reg v m, o = .tregWrite t reg v m) ∧ u.trace = s.trace ++ writes

/-- From `s` to `u` the record has grown by register writes and then one response. -/
def AddsResponse (s u : State) : Prop := ∃ v a b d, AddsWrites s v ∧ u = v.respond a b d

theorem addsWrites_of_trace_eq (h : u.trace = s.trace) : AddsWrites s u := ⟨[], by simp, by simp [h]⟩

theorem addsWrites_refl (s : State) : AddsWrites s s := addsWrites_of_trace_eq rfl

theorem AddsWrites.tregWrite (h : AddsWrites s u) (t : Byte) (reg : TReg) (v m : Half) :
    AddsWrites s (u.tregWrite t reg v m) := by
  obtain ⟨writes, hwrites, htrace⟩ := h
  refine ⟨writes ++ [.tregWrite t reg v m], ?_, by simp [htrace]⟩
  intro o ho
  rcases List.mem_append.mp ho with ho | ho
  · exact hwrites o ho
  · exact ⟨t, reg, v, m, List.mem_singleton.mp ho⟩

theorem AddsWrites.updCh (h : AddsWrites s u) (c : Byte) (f : Channel → Channel) : AddsWrites s (u.updCh c f) := h

theorem AddsWrites.doStop (h : AddsWrites s u) (c : Byte) : AddsWrites s (u.doStop c) := by
  unfold State.doStop
  split
  · exact h.updCh _ _
  · exact ((((h.tregWrite ..).tregWrite ..).tregWrite ..).tregWrite ..).updCh ..

theorem addsWrites_bindTimer (s : State) (c p t : Byte) (w : Width) : AddsWrites s (s.bindTimer c p t w) :=
  (AddsWrites.tregWrite (u := (s.updCh c _).setOwner t c) (addsWrites_of_trace_eq rfl) ..).updCh ..

theorem addsWrites_startRun (s : State) (c t : Byte) (m : Mode) (tm : Timing) (n : Word) :
    AddsWrites s (s.startRun c t m tm n) := by
  have hprogram : AddsWrites s (s.programTimer t (BitVec.ofNat 16 tm.compareValue)) :=
    ((((addsWrites_refl s).tregWrite ..).tregWrite ..).tregWrite ..).tregWrite ..
  have harm : AddsWrites s ((s.programTimer t (BitVec.ofNat 16 tm.compareValue)).armCount c t m n) := by
    cases m with
    | discrete => exact (hprogram.updCh ..).tregWrite ..
    | continuous | stopped => exact hprogram
  exact (harm.tregWrite ..).updCh ..

theorem addsWrites_retime (s : State) (c t : Byte) (tm : Timing) : AddsWrites s (s.retime c t tm) :=
  (((addsWrites_refl s).tregWrite ..).tregWrite ..).updCh ..

theorem AddsWrites.respond (h : AddsWrites s u) (a b : Byte) (d : Half) : AddsResponse s (u.respond a b d) :=
  ⟨u, a, b, d, h, rfl⟩

theorem AddsWrites.fail (h : AddsWrites s u) (c : Byte) (e : ErrorKind) : AddsResponse s (u.fail c e) :=
  (h.updCh ..).respond ..

theorem effect_addsResponse {i : Instr} (h : Effect s i u) : AddsResponse s u := by
  cases h with
  | illegal | isrunning | isvalid | geterror | solveFails | solves => exact (addsWrites_refl s).respond ..
  | generateFails | updateFails => exact (addsWrites_refl s).fail ..
  | bindFails => exact ((addsWrites_refl s).updCh ..).fail ..
  | binds => exact (addsWrites_bindTimer ..).respond ..
  | starts => exact (addsWrites_startRun ..).respond ..
  | retimes => exact (addsWrites_retime ..).respond ..
  | stops => exact ((addsWrites_refl s).doStop _).respond ..

theorem runCommand_addsResponse {w : CommandWord} (h : runCommand w s = .next u) : AddsResponse s u := by
  unfold runCommand at h
  split at h
  · cases h
    exact (addsWrites_refl s).respond ..
  · exact effect_addsResponse (effect_of_exec h)

theorem addsWrites_compareMatch (s : State) (t : Byte) : AddsWrites s (s.compareMatch t) := by
  have hflip : AddsWrites s (s.flipOut t) := addsWrites_of_trace_eq rfl
  rcases compareMatch_cases s t with ⟨-, h⟩ | ⟨-, -, h⟩ | ⟨c, -, -, -, h⟩ <;> rw [h]
  · exact addsWrites_refl s
  · exact hflip
  · rcases handleInterrupt_cases (s.flipOut t) c with ⟨-, h⟩ | ⟨-, -, h⟩ | ⟨-, -, h⟩ <;> rw [h]
    · exact hflip
    · exact hflip.updCh ..
    · exact (hflip.updCh ..).doStop c

end Sys2Proof.Machine

open Sys2Proof Sys2Proof.Machine

/-- Settles O5, by the decoder's refusals and the commands' own checks. -/
theorem illegalWordIsAnsweredAndChangesNothing : Obligations.IllegalWordIsAnsweredAndChangesNothing := by
  intro s w rest hs hw
  have hillegal : IllegalWord { s with schedule := rest } w := hw
  rw [step_command hs, runCommand_illegalWord hillegal]
  rfl

/-- Settles O9, by the stimulus: a command's effect ends in its response, an event's writes are `do_stop`'s. -/
theorem oneResponsePerCommandAfterItsWrites : Obligations.OneResponsePerCommandAfterItsWrites := by
  intro s s' x rest hs hstep
  rw [step_cons hs] at hstep
  cases x with
  | command w =>
    obtain ⟨u, a, b, d, ⟨writes, hwrites, htrace⟩, rfl⟩ := runCommand_addsResponse hstep
    exact ⟨writes, hwrites, fun _ => ⟨_, by rw [respond_trace, htrace]⟩, fun hx => absurd rfl (hx w)⟩
  | compareMatch t =>
    cases hstep
    obtain ⟨writes, hwrites, htrace⟩ := addsWrites_compareMatch { s with schedule := rest } t
    exact ⟨writes, hwrites, by simp, fun _ => htrace⟩
  | rst platform =>
    cases hstep
    exact ⟨[], by simp, by simp, by simp⟩

/-- Settles O6: each field is one part of the two appends. -/
theorem responseWordFields : Obligations.ResponseWordFields := by
  intro status val8 val16
  unfold responseWord
  refine ⟨?_, ?_, ?_⟩
  · rw [BitVec.extractLsb'_append_eq_of_le (by decide)]
    exact BitVec.extractLsb'_append_eq_left
  · rw [BitVec.extractLsb'_append_eq_of_le (by decide)]
    exact BitVec.extractLsb'_append_eq_right
  · exact BitVec.extractLsb'_append_eq_right

/-- Settles O7: a command at the head of the schedule is run, and running is decoding, then `exec`. -/
theorem stepRunsTheDecodedCommand : Obligations.StepRunsTheDecodedCommand := by
  intro s
  refine ⟨fun w rest i hs hdecode => ?_, fun nbits w i hdecode => ?_, fun hs => ?_⟩
  · rw [step_command hs, runCommand_of_decode hdecode]
  · rw [step_withFetchWord, runCommand_of_decode (decode_of_decodeTableWord hdecode)]
  · rw [step, hs]

end

section
/-! Channel binding (40_channel_binding.md): CONSTRUCT by its three branches (R90), a binding kept by every step but a
reset (R92), the events of a timer whose registry entry has moved (R93), and the queries (R91, R128, R129). -/

namespace Sys2Proof.Machine

variable {s s' : State} {c e t : Byte}

/-! ### CONSTRUCT and the queries, branch by branch -/

theorem hasSlot_eq_true : s.hasSlot c = true ↔ c.toNat < s.cfg.nCh := by
  simp [State.hasSlot]

/-- The answer to an illegal command, with the response word written out (R74). -/
theorem illegal_eq (s : State) : s.illegal = { s with trace := s.trace ++ [.response 0xFF000000] } := rfl

/-- R74 (b), (c), (e) on a word of CONSTRUCT's format. -/
theorem illegalWord_pack_construct {p : Byte} {freq count : Word} : IllegalWord s (pack 0x01 c p freq count) ↔
    s.cfg.nCh ≤ c.toNat ∨ (s.ch c).constructed = true ∨ freq ≠ 0 ∨ count ≠ 0 := by
  simp [IllegalWord, opField_pack, chField_pack, argField_pack, freqField_pack, countField_pack, or_left_comm, or_comm]

/-- R74 (b), (c) on a word of format N (R71): STOP and the queries. -/
theorem illegalWord_pack_formatN {op arg : Byte} {freq count : Word}
    (hop : op = 0x04 ∨ op = 0x05 ∨ op = 0x06 ∨ op = 0x07) : IllegalWord s (pack op c arg freq count) ↔
    s.cfg.nCh ≤ c.toNat ∨ arg ≠ 0 ∨ freq ≠ 0 ∨ count ≠ 0 := by
  rcases hop with rfl | rfl | rfl | rfl <;>
    simp [IllegalWord, opField_pack, chField_pack, argField_pack, freqField_pack, countField_pack, or_left_comm,
      or_comm]

theorem runCommand_encode (i : Instr) (s : State) : runCommand (encode i) s = exec i s :=
  runCommand_of_decode (decode_encode i)

theorem exec_construct_invalidPin {p : Byte} (slot : s.hasSlot c = true) (fresh : (s.ch c).constructed = false)
    (h : lookupPin s.cfg p = none) : exec (.construct c p) s = .next ((s.bindInvalid c p).fail c .invalidPin) := by
  simp [exec, execConstruct, slot, fresh, h]

theorem exec_construct_bound {p : Byte} {w : Width} (slot : s.hasSlot c = true)
    (fresh : (s.ch c).constructed = false) (h : lookupPin s.cfg p = some (t, w)) :
    exec (.construct c p) s = .next ((s.bindTimer c p t w).respond 0 1 0) := by
  simp [exec, execConstruct, slot, fresh, h]

theorem exec_isrunning (slot : s.hasSlot c = true) :
    exec (.isrunning c) s = .next (s.respond 0 (if (s.ch c).runState = .running then 1 else 0) 0) := by
  simp [exec, execIsrunning, slot]

theorem exec_isvalid (slot : s.hasSlot c = true) :
    exec (.isvalid c) s = .next (s.respond 0 (if (s.ch c).timerIdentity ≠ none then 1 else 0) 0) := by
  simp [exec, execIsvalid, slot]

theorem exec_geterror (slot : s.hasSlot c = true) :
    exec (.geterror c) s = .next (s.respond 0 (s.ch c).lastError.code 0) := by
  simp [exec, execGeterror, slot]

/-- The state a CONSTRUCT on a pin without a timer leaves, in closed form (R90). -/
theorem bindInvalid_fail_eq (s : State) (c p : Byte) : (s.bindInvalid c p).fail c .invalidPin = { s with
    channels := s.channels.modify c.toNat (fun r =>
      { r with constructed := true, pin := p, timerIdentity := none, lastError := .invalidPin })
    trace := s.trace ++ [.response 0x01000000] } := by
  have hresponse : responseWord ErrorKind.invalidPin.code 0 0 = 0x01000000 := rfl
  simp only [State.bindInvalid, State.fail, State.updCh, State.respond, List.modify_modify_eq, Function.comp_def,
    hresponse]

/-- The state a successful CONSTRUCT leaves, with its response, in closed form (R90). -/
theorem bindTimer_respond_eq (s : State) (c p t : Byte) (w : Width) : (s.bindTimer c p t w).respond 0 1 0 = { s with
    channels := s.channels.modify c.toNat (fun r =>
      { r with constructed := true, pin := p, timerIdentity := some t, counterWidth := w, lastError := .none })
    registry := s.registry.set t.toNat (some c)
    timers := s.timers.modify t.toNat (fun r => { r with ddr := r.ddr ||| 0x01 })
    trace := s.trace ++ [.tregWrite t .ddr 0x01 0x01, .response 0x00010000] } := by
  have hresponse : responseWord 0 1 0 = 0x00010000 := rfl
  simp only [bindTimer_eq, State.respond, hresponse, List.append_assoc, List.cons_append, List.nil_append]

/-! ### A binding never changes -/

/-- The four fields of a slot that CONSTRUCT fixes (R92). -/
def Channel.binding (r : Channel) : Bool × Byte × Option Byte × Width :=
  (r.constructed, r.pin, r.timerIdentity, r.counterWidth)

theorem ne_of_constructed_of_fresh (hc : (s.ch e).constructed = true) (fresh : (s.ch c).constructed = false) :
    e ≠ c := by
  rintro rfl
  exact Bool.false_ne_true (fresh.symm.trans hc)

/-- A command keeps the binding of a constructed slot: a CONSTRUCT that binds names another slot, and no other command
writes these fields. -/
theorem effect_binding {i : Instr} (h : Effect s i s') (hc : (s.ch e).constructed = true) :
    (s'.ch e).binding = (s.ch e).binding := by
  cases h with
  | illegal | isrunning | isvalid | geterror | solveFails | solves => rfl
  | bindFails c p slot fresh =>
    have hne := (ne_of_constructed_of_fresh hc fresh).symm
    rw [fail_ch, if_neg (fun h => hne h.1), bindInvalid_ch, if_neg (fun h => hne h.1)]
  | binds c p t w slot fresh =>
    have hne := (ne_of_constructed_of_fresh hc fresh).symm
    rw [ch_respond, bindTimer_ch, if_neg (fun h => hne h.1)]
  | generateFails | updateFails => rw [fail_ch]; split <;> rfl
  | starts c m f n t md tm slot h =>
    obtain ⟨-, -, -, hmode, -⟩ := generateVerdict_ok h
    rcases hmode with ⟨-, rfl, -⟩ | ⟨-, rfl⟩
    · rw [ch_respond, startRun_discrete_ch]; split <;> rfl
    · rw [ch_respond, startRun_continuous_ch]; split <;> rfl
  | retimes => rw [ch_respond, retime_ch]; split <;> rfl
  | stops => rw [ch_respond, doStop_ch]; split <;> rfl

theorem compareMatch_binding (s : State) (t e : Byte) : ((s.compareMatch t).ch e).binding = (s.ch e).binding := by
  obtain ⟨hconstructed, hpin, hidentity, hwidth, -, -⟩ := compareMatch_keeps s t e
  simp only [Channel.binding, hconstructed, hpin, hidentity, hwidth]

/-- Every step but a reset (R92). -/
theorem step_binding (h : step s = .next s') (hrst : ∀ platform rest, s.schedule ≠ .rst platform :: rest)
    (hc : (s.ch e).constructed = true) : (s'.ch e).binding = (s.ch e).binding := by
  rcases step_cases h with ⟨-, rfl⟩ | ⟨w, rest, -, -, rfl⟩ | ⟨w, rest, i, -, -, heffect⟩ | ⟨t, rest, -, rfl⟩ |
    ⟨p, rest, hs, -⟩
  · rfl
  · rfl
  · exact effect_binding (s := { s with schedule := rest }) heffect hc
  · exact compareMatch_binding { s with schedule := rest } t e
  · exact absurd hs (hrst p rest)

/-! ### Events go to the registered owner -/

/-- An event of a timer reaches no slot but the timer's owner (R158). -/
theorem compareMatch_ch_of_not_owner (howner : s.owner t = some c) (hne : e ≠ c) :
    (s.compareMatch t).ch e = s.ch e := by
  rcases compareMatch_cases s t with ⟨-, h⟩ | ⟨-, -, h⟩ | ⟨d, -, -, hd, h⟩ <;> rw [h]
  · rfl
  · obtain rfl : c = d := Option.some.inj (howner.symm.trans hd)
    exact handleInterrupt_others (s.flipOut t) hne

/-- The handler of a slot that is not in Discrete mode does nothing (R159). -/
theorem handleInterrupt_of_not_discrete (h : (s.ch c).mode ≠ .discrete) : s.handleInterrupt c = s :=
  if_neg (fun ⟨_, hmode, _⟩ => h hmode)

/-- An event of a timer whose owner is not in Discrete mode reaches no slot at all (R159). -/
theorem compareMatch_channels_of_not_discrete (howner : s.owner t = some c) (hmode : (s.ch c).mode ≠ .discrete) :
    (s.compareMatch t).channels = s.channels := by
  rcases compareMatch_cases s t with ⟨-, h⟩ | ⟨-, -, h⟩ | ⟨d, -, -, hd, h⟩ <;> rw [h]
  · rfl
  · obtain rfl : c = d := Option.some.inj (howner.symm.trans hd)
    have hhandler : (s.flipOut t).handleInterrupt c = s.flipOut t := handleInterrupt_of_not_discrete hmode
    rw [hhandler]
    rfl

end Sys2Proof.Machine

open Sys2Proof Sys2Proof.Machine

/-- Settles O13, by the three branches of CONSTRUCT. -/
theorem constructBindsTheSlotOnce : Obligations.ConstructBindsTheSlotOnce := by
  intro s c p
  refine ⟨runCommand_encode (.construct c p) s, fun freq count hillegal => ?_, fun slot fresh hpin => ?_,
    fun t w slot fresh hpin => ?_⟩
  · rw [runCommand_illegalWord (illegalWord_pack_construct.mpr hillegal), illegal_eq]
  · rw [exec_construct_invalidPin (hasSlot_eq_true.mpr slot) fresh hpin, bindInvalid_fail_eq]
  · rw [exec_construct_bound (hasSlot_eq_true.mpr slot) fresh hpin, bindTimer_respond_eq]

/-- Settles O14: commands and events keep the binding of a constructed slot, and CONSTRUCT refuses such a slot. -/
theorem bindingIsImmutable : Obligations.BindingIsImmutable := by
  intro s c hc
  refine ⟨fun s' hstep hrst => ?_, fun p => ?_⟩
  · have hbinding := step_binding hstep hrst hc
    simp only [Channel.binding, Prod.mk.injEq] at hbinding
    obtain ⟨hconstructed, hpin, hidentity, hwidth⟩ := hbinding
    exact ⟨hconstructed.trans hc, hpin, hidentity, hwidth⟩
  · rw [exec_illegalOperands (Or.inr (Or.inl ⟨c, p, rfl, hc⟩)), illegal_eq]

/-- Settles O15: CONSTRUCT moves the registry entry, and an event is served by the owner it finds there. -/
theorem evictionRedirectsTheEvents : Obligations.EvictionRedirectsTheEvents := by
  intro s c1 c2 p t w hsized ht _ hne slot fresh hpin
  obtain ⟨-, hregistry, -⟩ := hsized
  refine ⟨_, exec_construct_bound (hasSlot_eq_true.mpr slot) fresh hpin, ?_, ?_, fun s'' howner => ⟨?_, ?_⟩⟩
  · rw [owner_respond, bindTimer_owner, if_pos ⟨rfl, hregistry ▸ ht⟩]
  · rw [ch_respond, bindTimer_ch, if_neg (fun h => hne h.1.symm)]
  · exact fun c hc => compareMatch_ch_of_not_owner howner hc
  · exact compareMatch_channels_of_not_discrete howner

/-- Settles O29: a query is refused by the words of R74, and otherwise is its one response. -/
theorem queriesAnswerTheirField : Obligations.QueriesAnswerTheirField := by
  intro s c
  refine ⟨fun op i hi => ?_, fun hc => ⟨?_, ?_, ?_⟩⟩
  · simp only [List.mem_cons, Prod.mk.injEq, List.not_mem_nil, or_false] at hi
    have hword : pack op c 0 0 0 = encode i := by
      rcases hi with ⟨rfl, rfl⟩ | ⟨rfl, rfl⟩ | ⟨rfl, rfl⟩ <;> rfl
    have hop : op = 0x04 ∨ op = 0x05 ∨ op = 0x06 ∨ op = 0x07 :=
      Or.inr (hi.imp And.left (Or.imp And.left And.left))
    refine ⟨by rw [hword, runCommand_encode], fun arg freq count hillegal => ?_⟩
    rw [runCommand_illegalWord ((illegalWord_pack_formatN hop).mpr hillegal), illegal_eq]
  · rw [exec_isrunning (hasSlot_eq_true.mpr hc)]
    split <;> rfl
  · rw [exec_isvalid (hasSlot_eq_true.mpr hc)]
    split <;> rfl
  · rw [exec_geterror (hasSlot_eq_true.mpr hc)]
    cases (s.ch c).lastError <;> rfl

end

section
/-! The timing engine (41_timing_engine.md): which divider the search takes (R100, R102, R103) and when there is none
(R106), the early exit (R109), and SOLVE by its branches (R108). -/

namespace Sys2Proof.Machine

/-! ### The divider the search takes -/

section

variable {cfg : Config} {fClk f d : Nat} {w : Width} {tm : Timing}

/-- A result is the quotient and the selector of a divider of the list that fits, and every divider before it fails. -/
theorem computeTiming_some_split (h : computeTiming cfg f w = some tm) :
    ∃ before p after, prescalers cfg w = before ++ p :: after ∧
      (∀ q ∈ before, fitsCounter w (quotient cfg.fClk q.divider f) = false) ∧
      p.selector = tm.selector ∧ tm.compareValue + 1 = quotient cfg.fClk p.divider f := by
  obtain ⟨before, p, after, hl, hbefore, hfit, rfl⟩ := searchPrescalers_some h
  exact ⟨before, p, after, hl, hbefore, rfl, Nat.sub_add_cancel ((fitsCounter_iff _ _).mp hfit).1⟩

theorem computeTiming_isSome : (computeTiming cfg f w).isSome = true ↔
    ∃ p ∈ prescalers cfg w, fitsCounter w (quotient cfg.fClk p.divider f) = true := by
  rw [Option.isSome_iff_ne_none, Ne, computeTiming, searchPrescalers_none]
  simp

/-- On an ascending list the divider of the result is the least that fits (R103). -/
theorem computeTiming_least (hasc : (prescalers cfg w).Pairwise (fun a b => a.divider < b.divider))
    (h : computeTiming cfg f w = some tm) :
    ∃ p ∈ prescalers cfg w, p.selector = tm.selector ∧ tm.compareValue + 1 = quotient cfg.fClk p.divider f ∧
      ∀ q ∈ prescalers cfg w, fitsCounter w (quotient cfg.fClk q.divider f) = true → p.divider ≤ q.divider := by
  obtain ⟨before, p, after, hl, hbefore, hsel, hq⟩ := computeTiming_some_split h
  rw [hl] at hasc ⊢
  refine ⟨p, by simp, hsel, hq, fun q hmem hfit => ?_⟩
  rcases List.mem_append.mp hmem with hin | hin
  · exact absurd hfit (by simp [hbefore q hin])
  · rcases List.mem_cons.mp hin with rfl | hin
    · exact le_rfl
    · exact (List.rel_of_pairwise_cons (List.pairwise_append.mp hasc).2.1 hin).le

/-- R104: the output period of quotient `q` times `f` is the multiple `2 P f * q` that rounds `F_CLK` down. -/
theorem mul_outputPeriod (hq : tm.compareValue + 1 = quotient fClk d f) :
    f * outputPeriod d tm.compareValue = 2 * d * f * (fClk / (2 * d * f)) := by
  rw [outputPeriod, eventSpacing, hq, quotient]
  ring

/-! ### When the search fails -/

/-- No divider fits once the least divider's quotient is 0 (R106 a). -/
theorem searchPrescalers_none_of_quotient_head {a : Prescale} {rest : List Prescale} (hf : 1 ≤ f) (ha : 0 < a.divider)
    (hasc : (a :: rest).Pairwise (fun a b => a.divider < b.divider)) (h : quotient fClk a.divider f = 0) :
    searchPrescalers fClk f w (a :: rest) = none := by
  refine searchPrescalers_none.mpr fun p hp => ?_
  have hle : a.divider ≤ p.divider := by
    rcases List.mem_cons.mp hp with rfl | hp
    · exact le_rfl
    · exact (List.rel_of_pairwise_cons hasc hp).le
  have hzero : quotient fClk p.divider f = 0 := Nat.eq_zero_of_le_zero (h ▸ quotient_antitone hf ha hle)
  simp [fitsCounter, hzero]

/-- No divider fits when the greatest divider's quotient is above the bound (R106 b). -/
theorem searchPrescalers_none_of_quotient_last {front : List Prescale} {last : Prescale} (hf : 1 ≤ f)
    (hpos : ∀ p ∈ front ++ [last], 0 < p.divider)
    (hasc : (front ++ [last]).Pairwise (fun a b => a.divider < b.divider))
    (h : 2 ^ widthBits w < quotient fClk last.divider f) :
    searchPrescalers fClk f w (front ++ [last]) = none := by
  refine searchPrescalers_none.mpr fun p hp => ?_
  have hle : p.divider ≤ last.divider := by
    rcases List.mem_append.mp hp with hp | hp
    · exact ((List.pairwise_append.mp hasc).2.2 p hp last (by simp)).le
    · exact (congrArg Prescale.divider (List.mem_singleton.mp hp)).le
  have hgt := h.trans_le (quotient_antitone hf (hpos p hp) hle)
  exact Bool.eq_false_iff.mpr fun hfit => absurd ((fitsCounter_iff _ _).mp hfit).2 hgt.not_ge

theorem one_le_quotient (hd : 0 < d) (hf : 1 ≤ f) : 1 ≤ quotient fClk d f ↔ 2 * d * f ≤ fClk := by
  rw [quotient, Nat.le_div_iff_mul_le (by positivity), one_mul]

theorem quotient_le_iff (hd : 0 < d) (hf : 1 ≤ f) (m : Nat) :
    quotient fClk d f ≤ m ↔ fClk < (m + 1) * (2 * d * f) := by
  rw [quotient, ← Nat.lt_succ_iff, Nat.div_lt_iff_lt_mul (by positivity)]

/-- No hole in the middle (R106 c): if a divider's quotient is above the bound and the next divider is at most
`2^w + 1` times as large, the next quotient is not 0. -/
theorem exists_fits_of_chain {a last : Prescale} {rest : List Prescale} (hf : 1 ≤ f)
    (hpos : ∀ p ∈ a :: rest, 0 < p.divider)
    (hratio : (a :: rest).IsChain (fun a b => b.divider ≤ (2 ^ widthBits w + 1) * a.divider))
    (hlast : (a :: rest).getLast? = some last) (hhigh : 1 ≤ quotient fClk a.divider f)
    (hlow : quotient fClk last.divider f ≤ 2 ^ widthBits w) :
    ∃ p ∈ a :: rest, fitsCounter w (quotient fClk p.divider f) = true := by
  induction rest generalizing a with
  | nil =>
    obtain rfl : a = last := by simpa using hlast
    exact ⟨a, by simp, (fitsCounter_iff _ _).mpr ⟨hhigh, hlow⟩⟩
  | cons b rest ih =>
    by_cases hfit : quotient fClk a.divider f ≤ 2 ^ widthBits w
    · exact ⟨a, by simp, (fitsCounter_iff _ _).mpr ⟨hhigh, hfit⟩⟩
    obtain ⟨hab, hratio⟩ := List.isChain_cons_cons.mp hratio
    have hposb : ∀ p ∈ b :: rest, 0 < p.divider := fun p hp => hpos p (List.mem_cons_of_mem a hp)
    have hnext : 1 ≤ quotient fClk b.divider f := by
      rw [quotient_le_iff (hpos a (by simp)) hf, not_lt] at hfit
      rw [one_le_quotient (hposb b (by simp)) hf]
      calc 2 * b.divider * f ≤ 2 * ((2 ^ widthBits w + 1) * a.divider) * f := by gcongr
        _ = (2 ^ widthBits w + 1) * (2 * a.divider * f) := by ring
        _ ≤ fClk := hfit
    obtain ⟨p, hp, hpfit⟩ := ih hposb hratio (by simpa using hlast) hnext
    exact ⟨p, List.mem_cons_of_mem a hp, hpfit⟩

/-! ### Thresholds of a concrete list -/

/-- The first divider of the list is taken from the threshold `lo` on, where its quotient first stays below the bound;
below `lo` the rest of the list decides. -/
theorem selector_cons {sel : BitVec 3} {rest : List Prescale} {m lo : Nat} {answer : Option (BitVec 3)}
    (hd : 0 < d) (hf : 1 ≤ f) (hm : 2 ^ widthBits w = m) (hhigh : 2 * d * f ≤ fClk)
    (hlo : fClk < (m + 1) * (2 * d * f) ↔ lo ≤ f)
    (hrest : f < lo → (searchPrescalers fClk f w rest).map (·.selector) = answer) :
    (searchPrescalers fClk f w (⟨d, sel⟩ :: rest)).map (·.selector) = if lo ≤ f then some sel else answer := by
  have hfit : fitsCounter w (quotient fClk d f) = true ↔ lo ≤ f := by
    rw [fitsCounter_iff, one_le_quotient hd hf, hm, quotient_le_iff hd hf, hlo]
    exact and_iff_right hhigh
  rw [searchPrescalers]
  by_cases h : lo ≤ f
  · rw [if_pos (hfit.mpr h), if_pos h]
    rfl
  · rw [if_neg (mt hfit.mp h), if_neg h]
    exact hrest (not_le.mp h)

/-- The 16-bit thresholds of R106 up to the highest frequency. -/
theorem selector_defaultPresc16 (hf : 1 ≤ f) (hhigh : f ≤ 8000000) :
    (searchPrescalers 16000000 f .w16 Config.defaultPresc16).map (·.selector) =
      if 123 ≤ f then some 1 else if 16 ≤ f then some 2 else if 2 ≤ f then some 3 else some 4 := by
  have hm : 2 ^ widthBits .w16 = 65536 := rfl
  iterate 3 refine selector_cons (by omega) hf hm (by omega) (by omega) fun _ => ?_
  exact (selector_cons (lo := 1) (answer := none) (by omega) hf hm (by omega) (by omega)
    (fun h => absurd hf (not_le.mpr h))).trans (if_pos hf)

/-- The 8-bit thresholds of R106 up to the highest frequency. -/
theorem selector_defaultPresc8 (hf : 1 ≤ f) (hhigh : f ≤ 8000000) :
    (searchPrescalers 16000000 f .w8 Config.defaultPresc8).map (·.selector) =
      if 31129 ≤ f then some 1 else if 3892 ≤ f then some 2 else if 973 ≤ f then some 3
        else if 487 ≤ f then some 4 else if 244 ≤ f then some 5 else if 122 ≤ f then some 6
        else if 31 ≤ f then some 7 else none := by
  have hm : 2 ^ widthBits .w8 = 256 := rfl
  iterate 7 refine selector_cons (by omega) hf hm (by omega) (by omega) fun _ => ?_
  rfl

end

/-! ### SOLVE, branch by branch -/

section

variable {s : State} {wcode : Byte} {f : Word} {w : Width} {tm : Timing}

/-- R74 (b), (d) on a word of format S (R71). -/
theorem illegalWord_pack_solve {c : Byte} {count : Word} : IllegalWord s (pack 0x08 c wcode f count) ↔
    c ≠ 0 ∨ count ≠ 0 ∨ (wcode ≠ 0x08 ∧ wcode ≠ 0x10) := by
  simp [IllegalWord, opField_pack, chField_pack, argField_pack, freqField_pack, countField_pack, or_assoc]

theorem requestedWidth_of_code (h : (wcode = 0x08 ∧ w = .w8) ∨ (wcode = 0x10 ∧ w = .w16)) :
    requestedWidth wcode = some w := by
  rcases h with ⟨rfl, rfl⟩ | ⟨rfl, rfl⟩ <;> rfl

/-- A compare value of either width fits the field `VAL16` (R75, R102). -/
theorem compareValue_lt {cfg : Config} {n : Nat} (h : computeTiming cfg n w = some tm) : tm.compareValue < 2 ^ 16 := by
  have hmax : maxCompareValue w < 2 ^ 16 := by cases w <;> decide
  exact (computeTiming_some h).2.trans_lt hmax

/-- The response of a SOLVE that succeeds, as one number (R75, R108). -/
theorem responseWord_solved (h : tm.compareValue < 2 ^ 16) :
    responseWord 0 (tm.selector.setWidth 8) (BitVec.ofNat 16 tm.compareValue) =
      BitVec.ofNat 32 (tm.selector.toNat * 2 ^ 16 + tm.compareValue) := by
  have hsel : tm.selector.toNat < 2 ^ 8 := tm.selector.isLt.trans (by decide)
  have hval8 : (tm.selector.setWidth 8).toNat = tm.selector.toNat := by
    rw [BitVec.toNat_setWidth, Nat.mod_eq_of_lt hsel]
  have hword : tm.selector.toNat * 2 ^ 16 + tm.compareValue < 2 ^ 32 := by omega
  apply BitVec.eq_of_toNat_eq
  rw [responseWord, BitVec.toNat_append, BitVec.toNat_append, hval8, BitVec.toNat_ofNat, BitVec.toNat_ofNat,
    Nat.mod_eq_of_lt h, Nat.mod_eq_of_lt hword, ← Nat.shiftLeft_add_eq_or_of_lt h, Nat.shiftLeft_eq]
  simp

theorem solveVerdict_zero (cfg : Config) (w : Width) : solveVerdict cfg w 0 = .error .zeroFrequency := if_pos rfl

theorem solveVerdict_outOfRange {cfg : Config} (hf : f ≠ 0) (h : computeTiming cfg f.toNat w = none) :
    solveVerdict cfg w f = .error .frequencyOutOfRange := by
  rw [solveVerdict, if_neg hf, h]

theorem solveVerdict_result {cfg : Config} (hf : f ≠ 0) (h : computeTiming cfg f.toNat w = some tm) :
    solveVerdict cfg w f = .ok tm := by
  rw [solveVerdict, if_neg hf, h]

theorem exec_solve_error {e : ErrorKind} (hw : requestedWidth wcode = some w)
    (h : solveVerdict s.cfg w f = .error e) : exec (.solve wcode f) s = .next (s.respond e.code 0 0) := by
  simp [exec, execSolve, hw, h]

theorem exec_solve_ok (hw : requestedWidth wcode = some w) (h : solveVerdict s.cfg w f = .ok tm) :
    exec (.solve wcode f) s =
      .next (s.respond 0 (tm.selector.setWidth 8) (BitVec.ofNat 16 tm.compareValue)) := by
  simp [exec, execSolve, hw, h]

end

end Sys2Proof.Machine

open Sys2Proof Sys2Proof.Machine

/-- Settles O16: the divider of a result fits, and the search gives up only when none does. -/
theorem timingStaysInBounds : Obligations.TimingStaysInBounds := by
  intro cfg f w
  refine ⟨fun tm h => ?_, ?_⟩
  · obtain ⟨hsel, hle⟩ := computeTiming_some h
    exact ⟨hle, hsel⟩
  · simp only [computeTiming_isSome, fitsCounter_iff, quotient]

/-- Settles O17: the dividers before the chosen one fail, and those after it are larger. -/
theorem smallestFittingDividerIsChosen : Obligations.SmallestFittingDividerIsChosen := by
  intro cfg f w tm hok h
  obtain ⟨-, -, hasc⟩ := hok
  obtain ⟨p, hp, hsel, hq, hleast⟩ := computeTiming_least (hasc.imp And.left) h
  exact ⟨p, hp, hsel, hq, fun q hmem hone hle => hleast q hmem ((fitsCounter_iff _ _).mpr ⟨hone, hle⟩)⟩

/-- Settles O18: `f` times the output period is `2 P f * (F_CLK div (2 P f))`. -/
theorem achievedFrequencyIsNeverBelowTheRequest : Obligations.AchievedFrequencyIsNeverBelowTheRequest := by
  intro cfg f w tm _ _ h
  obtain ⟨before, p, after, hl, -, hsel, hq⟩ := computeTiming_some_split h
  refine ⟨p, by simp [hl], hsel, ?_⟩
  rw [mul_outputPeriod hq]
  exact ⟨Nat.mul_div_le _ _, Nat.mul_div_eq_iff_dvd⟩

/-- Settles O19: (a) by the least divider, (b) by the greatest, (c) along the list. -/
theorem outOfRangeOnlyAtTheTwoEnds : Obligations.OutOfRangeOnlyAtTheTwoEnds := by
  intro cfg f w first last hok hf hfirst hlast
  rw [computeTiming_isSome]
  unfold computeTiming
  generalize prescalers cfg w = l at *
  obtain ⟨-, hpos, hasc⟩ := hok
  replace hpos : ∀ p ∈ l, 0 < p.divider := fun p hp => (hpos p hp).1
  replace hasc := hasc.imp (S := fun a b : Prescale => a.divider < b.divider) And.left
  obtain ⟨rest, rfl⟩ := List.head?_eq_some_iff.mp hfirst
  refine ⟨fun hhigh => ?_, fun hlow => ?_, fun hhigh hlow hratio => ?_⟩
  · exact searchPrescalers_none_of_quotient_head hf (hpos first (by simp)) hasc (Nat.div_eq_of_lt hhigh)
  · obtain ⟨front, hfront⟩ := List.getLast?_eq_some_iff.mp hlast
    rw [hfront] at hpos hasc ⊢
    exact searchPrescalers_none_of_quotient_last hf hpos hasc hlow
  · have hone := (one_le_quotient (hpos first (by simp)) hf).mpr hhigh
    exact exists_fits_of_chain hf hpos hratio hlast hone (Nat.lt_succ_iff.mp hlow)

/-- Settles O20: too high for the divider 1 of both lists, and below that the thresholds list by list. -/
theorem defaultThresholds : Obligations.DefaultThresholds := by
  intro cfg f hclk h16 h8 hf
  simp only [computeTiming, prescalers, hclk, h16, h8]
  by_cases hhigh : 8000000 < f
  · have hzero : quotient 16000000 1 f = 0 := Nat.div_eq_of_lt (by omega)
    rw [if_pos hhigh, if_pos hhigh]
    exact ⟨congrArg _ (searchPrescalers_none_of_quotient_head hf Nat.one_pos (by decide) hzero),
      congrArg _ (searchPrescalers_none_of_quotient_head hf Nat.one_pos (by decide) hzero)⟩
  · rw [if_neg hhigh, if_neg hhigh]
    exact ⟨selector_defaultPresc16 hf (not_lt.mp hhigh), selector_defaultPresc8 hf (not_lt.mp hhigh)⟩

/-- Settles O21: where the early exit gives up, the full search finds only quotients 0 in the rest of the list. -/
theorem earlyExitGivesTheSameResult : Obligations.EarlyExitGivesTheSameResult := by
  intro fClk f w l hf hpos hasc
  induction l with
  | nil => rfl
  | cons a rest ih =>
    have hsame := ih (fun p hp => hpos p (List.mem_cons_of_mem a hp)) hasc.of_cons
    rw [searchPrescalersEarlyExit]
    split
    · rename_i hzero
      exact (searchPrescalers_none_of_quotient_head hf (hpos a (by simp)) hasc hzero).symm
    · rw [searchPrescalers, hsame]

/-- Settles O22: a word of format S is refused by R74, or is SOLVE with the three outcomes of R108. -/
theorem solveAnswersTheSolver : Obligations.SolveAnswersTheSolver := by
  intro s wcode f
  refine ⟨fun c count hillegal => ?_, fun w hcode => ⟨runCommand_encode (.solve wcode f) s, ?_⟩⟩
  · rw [runCommand_illegalWord (illegalWord_pack_solve.mpr hillegal), illegal_eq]
  · have hw := requestedWidth_of_code hcode
    by_cases hf : f = 0
    · subst hf
      exact exec_solve_error hw (solveVerdict_zero s.cfg w)
    · rw [if_neg hf]
      cases h : computeTiming s.cfg f.toNat w with
      | none => exact exec_solve_error hw (solveVerdict_outOfRange hf h)
      | some tm =>
        rw [exec_solve_ok hw (solveVerdict_result hf h), State.respond, responseWord_solved (compareValue_lt h)]

end

section
/-! GENERATE, UPDATEFREQ and STOP (42_generate_stop_update.md), each by its branches (R121 to R127), and what `do_stop`
leaves of a channel and of its timer (R125, R126). -/

namespace Sys2Proof.Machine

/-! ### GENERATE and UPDATEFREQ: the first failing check -/

section

variable {cfg : Config} {r : Channel} {m t : Byte} {f n : Word} {md : Mode} {tm : Timing}

theorem generateVerdict_invalidPin (h : r.timerIdentity = none) : generateVerdict cfg r m f n = .error .invalidPin := by
  simp [generateVerdict, h]

theorem updateVerdict_invalidPin (h : r.timerIdentity = none) : updateVerdict cfg r f = .error .invalidPin := by
  simp [updateVerdict, h]

theorem requestedMode_eq_none (h : m ≠ 0x01 ∧ m ≠ 0x02) : requestedMode m = none := by
  rw [requestedMode, if_neg h.1, if_neg h.2]

variable (hid : r.timerIdentity = some t)

include hid

theorem generateVerdict_alreadyActive (hrun : r.runState = .running) :
    generateVerdict cfg r m f n = .error .alreadyActive := by
  simp [generateVerdict, hid, hrun]

theorem updateVerdict_notRunning (hrun : r.runState ≠ .running) :
    updateVerdict cfg r f = .error .notRunning := by
  simp [updateVerdict, hid, hrun]

theorem updateVerdict_zeroFrequency (hrun : r.runState = .running) :
    updateVerdict cfg r 0 = .error .zeroFrequency := by
  simp [updateVerdict, hid, hrun]

theorem updateVerdict_outOfRange (hrun : r.runState = .running) (hf : f ≠ 0)
    (h : computeTiming cfg f.toNat r.counterWidth = none) :
    updateVerdict cfg r f = .error .frequencyOutOfRange := by
  simp only [updateVerdict, hid, if_neg (not_not.mpr hrun), if_neg hf, h]

theorem updateVerdict_eq_ok (hrun : r.runState = .running) (hf : f ≠ 0)
    (h : computeTiming cfg f.toNat r.counterWidth = some tm) : updateVerdict cfg r f = .ok (t, tm) := by
  simp only [updateVerdict, hid, if_neg (not_not.mpr hrun), if_neg hf, h]

variable (hidle : r.runState ≠ .running)

include hidle

theorem generateVerdict_zeroFrequency : generateVerdict cfg r m 0 n = .error .zeroFrequency := by
  simp [generateVerdict, hid, hidle]

variable (hf : f ≠ 0)

include hf

theorem generateVerdict_invalidMode (hm : m ≠ 0x01 ∧ m ≠ 0x02) :
    generateVerdict cfg r m f n = .error .invalidMode := by
  simp only [generateVerdict, hid, if_neg hidle, if_neg hf, requestedMode_eq_none hm]

theorem generateVerdict_zeroPulses (hm : requestedMode m = some .discrete) :
    generateVerdict cfg r m f 0 = .error .zeroPulses := by
  simp only [generateVerdict, hid, if_neg hidle, if_neg hf, hm, and_self, if_true]

variable (hm : requestedMode m = some md) (hn : ¬ (md = .discrete ∧ n = 0))

include hm hn

theorem generateVerdict_outOfRange (h : computeTiming cfg f.toNat r.counterWidth = none) :
    generateVerdict cfg r m f n = .error .frequencyOutOfRange := by
  simp only [generateVerdict, hid, if_neg hidle, if_neg hf, hm, if_neg hn, h]

theorem generateVerdict_eq_ok (h : computeTiming cfg f.toNat r.counterWidth = some tm) :
    generateVerdict cfg r m f n = .ok (t, md, tm) := by
  simp only [generateVerdict, hid, if_neg hidle, if_neg hf, hm, if_neg hn, h]

end

/-! ### The three commands, branch by branch -/

section

variable {s s' : State} {c t m : Byte} {f n : Word} {md : Mode} {tm : Timing} {e : ErrorKind}

/-- R74 (b), (c) on a word of UPDATEFREQ's format. -/
theorem illegalWord_pack_updatefreq {arg : Byte} {count : Word} : IllegalWord s (pack 0x03 c arg f count) ↔
    s.cfg.nCh ≤ c.toNat ∨ arg ≠ 0 ∨ count ≠ 0 := by
  simp [IllegalWord, opField_pack, chField_pack, argField_pack, freqField_pack, countField_pack, or_left_comm, or_comm]

theorem exec_of_noSlot {i : Instr} (hi : i.slot = some c) (hc : s.cfg.nCh ≤ c.toNat) :
    exec i s = .next s.illegal :=
  exec_illegalOperands (Or.inl ⟨c, hi, hasSlot_eq_false.mpr hc⟩)

theorem exec_generate_error (slot : s.hasSlot c = true) (h : generateVerdict s.cfg (s.ch c) m f n = .error e) :
    exec (.generate c m f n) s = .next (s.fail c e) := by
  simp [exec, execGenerate, slot, h]

theorem exec_generate_ok (slot : s.hasSlot c = true) (h : generateVerdict s.cfg (s.ch c) m f n = .ok (t, md, tm)) :
    exec (.generate c m f n) s = .next ((s.startRun c t md tm n).respond 0 1 0) := by
  simp [exec, execGenerate, slot, h]

theorem exec_updatefreq_error (slot : s.hasSlot c = true) (h : updateVerdict s.cfg (s.ch c) f = .error e) :
    exec (.updatefreq c f) s = .next (s.fail c e) := by
  simp [exec, execUpdatefreq, slot, h]

theorem exec_updatefreq_ok (slot : s.hasSlot c = true) (h : updateVerdict s.cfg (s.ch c) f = .ok (t, tm)) :
    exec (.updatefreq c f) s = .next ((s.retime c t tm).respond 0 1 0) := by
  simp [exec, execUpdatefreq, slot, h]

theorem exec_stop (slot : s.hasSlot c = true) : exec (.stop c) s = .next ((s.doStop c).respond 0 0 0) := by
  simp [exec, execStop, slot]

/-- With nothing to enable, programming leaves `IMR` (R122 step 5). -/
theorem programmed_zero (r : TimerRegs) (tm : Timing) : r.programmed 0x00 tm = { r with
    cra := 0x41, crb := tm.selector.setWidth 8, ocr := BitVec.ofNat 16 tm.compareValue, out := false } := by
  have himr : r.imr ||| 0x00 = r.imr := BitVec.or_zero
  rw [TimerRegs.programmed, himr]

/-! ### `do_stop` on a channel that is already stopped -/

theorem modify_eq_self {α : Type} {l : List α} {i : Nat} {g : α → α} {d : α} (h : g (l.getD i d) = l.getD i d) :
    l.modify i g = l := by
  apply List.ext_getElem?
  intro j
  rw [List.getElem?_modify]
  by_cases hij : i = j
  · subst hij
    cases hx : l[i]? with
    | none => rfl
    | some x =>
      have hg : g x = x := by simpa [hx] using h
      simp [hg]
  · simp [hij]

theorem ch_of_not_lt (h : ¬ c.toNat < s.channels.length) : s.ch c = Channel.initial :=
  not_not.mp (fun hne => h (lt_of_ch_ne_initial hne))

theorem timer_of_not_lt (h : ¬ t.toNat < s.timers.length) : s.timer t = TimerRegs.zero := by
  simp [State.timer, List.getElem?_eq_none (Nat.le_of_not_lt h)]

/-- The stopped slot after `do_stop`; a slot outside the list reads as stopped anyway. -/
theorem doStop_ch_self (s : State) (c : Byte) :
    (s.doStop c).ch c = { s.ch c with runState := .idle, mode := .stopped } := by
  rw [doStop_ch]
  split
  · rfl
  · rename_i hlt
    rw [ch_of_not_lt (fun h => hlt ⟨rfl, h⟩)]
    rfl

theorem doStop_timer (hid : (s.ch c).timerIdentity = some t) (hlt : t.toNat < s.timers.length) :
    (s.doStop c).timer t = (s.timer t).halted := by
  rw [doStop_valid hid]
  exact (change_timer ..).trans (if_pos ⟨rfl, hlt⟩)

theorem doStop_timer_quiet (hid : (s.ch c).timerIdentity = some t) : ((s.doStop c).timer t).Quiet := by
  by_cases hlt : t.toNat < s.timers.length
  · rw [doStop_timer hid hlt]
    exact halted_quiet _
  · have hlen : ¬ t.toNat < (s.doStop c).timers.length := by
      rw [doStop_valid hid]
      simpa using hlt
    rw [timer_of_not_lt hlen]
    exact zero_quiet

/-- `do_stop`'s writes clear bits that are 0 in a quiet timer already (R125). -/
theorem halted_of_quiet {r : TimerRegs} (h : r.Quiet) : r.halted = r := by
  have hpa : ∀ x : Byte, x.extractLsb' 6 2 = 0 → x &&& 0x3F = x := by decide
  have hcs : ∀ x : Byte, x.extractLsb' 0 3 = 0 → x &&& 0xF8 = x := by decide
  have hbit : ∀ x : Byte, x.extractLsb' 0 1 = 0 → x &&& 0xFE = x := by decide
  obtain ⟨hcra, hcrb, himr, hport, hout⟩ := h
  rw [TimerRegs.halted, hpa _ hcra, hcs _ hcrb, hbit _ himr, hbit _ hport, ← hout]

/-- On a stopped channel with a quiet timer `do_stop` leaves writes in the record, and nothing else (R125). -/
theorem doStop_of_stopped (hstate : (s.ch c).runState = .idle) (hmode : (s.ch c).mode = .stopped)
    (hquiet : ∀ t, (s.ch c).timerIdentity = some t → (s.timer t).Quiet) :
    { s.doStop c with trace := s.trace } = s := by
  have hch : s.channels.modify c.toNat (fun r => { r with runState := .idle, mode := .stopped }) = s.channels := by
    refine modify_eq_self (d := Channel.initial) ?_
    show ({ s.ch c with runState := .idle, mode := .stopped } : Channel) = s.ch c
    rw [← hstate, ← hmode]
  cases hid : (s.ch c).timerIdentity with
  | none => rw [doStop_invalid hid, State.updCh, hch]
  | some t =>
    have htimers : s.timers.modify t.toNat TimerRegs.halted = s.timers :=
      modify_eq_self (d := TimerRegs.zero) (halted_of_quiet (hquiet t hid))
    rw [doStop_valid hid, hch, htimers]

end

end Sys2Proof.Machine

open Sys2Proof Sys2Proof.Machine

/-- Settles O23: the checks of `generateVerdict` in their order; the first that fails is what `fail` records. -/
theorem generateReportsTheFirstFailingCheck : Obligations.GenerateReportsTheFirstFailingCheck := by
  intro s c m f n
  refine ⟨fun hc => by rw [exec_of_noSlot rfl hc, illegal_eq], fun hc => ?_⟩
  have slot : s.hasSlot c = true := hasSlot_eq_true.mpr hc
  intro failsWith
  split_ifs with hnone hrun hf hm hn
  · exact exec_generate_error slot (generateVerdict_invalidPin hnone)
  all_goals obtain ⟨t, hid⟩ := Option.ne_none_iff_exists'.mp hnone
  · exact exec_generate_error slot (generateVerdict_alreadyActive hid hrun)
  · subst hf
    exact exec_generate_error slot (generateVerdict_zeroFrequency hid hrun)
  · exact exec_generate_error slot (generateVerdict_invalidMode hid hrun hf hm)
  · obtain ⟨rfl, rfl⟩ := hn
    exact exec_generate_error slot (generateVerdict_zeroPulses hid hrun hf rfl)
  · intro htiming
    have hmode : m = 0x01 ∨ m = 0x02 := by simpa only [not_and_or, not_not] using hm
    rcases hmode with rfl | rfl
    · exact exec_generate_error slot
        (generateVerdict_outOfRange hid hrun hf rfl (fun h => hn ⟨rfl, h.2⟩) htiming)
    · exact exec_generate_error slot (generateVerdict_outOfRange hid hrun hf rfl (by simp) htiming)

/-- Settles O24: with all checks passed GENERATE is `startRun`, whose closed form is R122's, and the response. -/
theorem generateProgramsTheTimer : Obligations.GenerateProgramsTheTimer := by
  intro s c t f n tm hc hid hidle hf htiming
  have slot : s.hasSlot c = true := hasSlot_eq_true.mpr hc
  have hnotRunning : (s.ch c).runState ≠ .running := by rw [hidle]; decide
  have hresponse : responseWord 0 1 0 = 0x00010000 := rfl
  refine ⟨fun hn => ?_, ?_⟩
  · have hv : generateVerdict s.cfg (s.ch c) 0x01 f n = .ok (t, .discrete, tm) :=
      generateVerdict_eq_ok hid hnotRunning hf rfl (fun h => hn h.2) htiming
    rw [exec_generate_ok slot hv, (startRun_eq s c t tm n).1]
    simp only [State.respond, hresponse, TimerRegs.programmed, togglesOf, List.append_assoc, List.cons_append,
      List.nil_append]
  · have hv : generateVerdict s.cfg (s.ch c) 0x02 f n = .ok (t, .continuous, tm) :=
      generateVerdict_eq_ok hid hnotRunning hf rfl (by simp) htiming
    rw [exec_generate_ok slot hv, (startRun_eq s c t tm n).2]
    simp only [State.respond, hresponse, programmed_zero, List.append_assoc, List.cons_append, List.nil_append]

/-- Settles O25: a word of its format is refused by R74, or is UPDATEFREQ with the checks of `updateVerdict` in their
order and then `retime`. -/
theorem updatefreqSwapsTheTiming : Obligations.UpdatefreqSwapsTheTiming := by
  intro s c f
  refine ⟨runCommand_encode (.updatefreq c f) s, fun arg count hillegal => ?_, fun hc => ?_⟩
  · rw [runCommand_illegalWord (illegalWord_pack_updatefreq.mpr hillegal), illegal_eq]
  · have slot : s.hasSlot c = true := hasSlot_eq_true.mpr hc
    intro failsWith
    cases hid : (s.ch c).timerIdentity with
    | none => exact exec_updatefreq_error slot (updateVerdict_invalidPin hid)
    | some t =>
      dsimp only
      split_ifs with hrun hf
      · exact exec_updatefreq_error slot (updateVerdict_notRunning hid hrun)
      · subst hf
        exact exec_updatefreq_error slot (updateVerdict_zeroFrequency hid (not_not.mp hrun))
      · cases htiming : computeTiming s.cfg f.toNat (s.ch c).counterWidth with
        | none => exact exec_updatefreq_error slot (updateVerdict_outOfRange hid (not_not.mp hrun) hf htiming)
        | some tm =>
          have hresponse : responseWord 0 1 0 = 0x00010000 := rfl
          have hv := updateVerdict_eq_ok hid (not_not.mp hrun) hf htiming
          dsimp only
          rw [exec_updatefreq_ok slot hv, retime_eq]
          simp only [State.respond, hresponse, TimerRegs.retimed, List.append_assoc, List.cons_append, List.nil_append]

/-- Settles O26: a word of format N is refused by R74, or is STOP, which is `do_stop` and the response. -/
theorem stopHaltsTheChannel : Obligations.StopHaltsTheChannel := by
  intro s c
  refine ⟨runCommand_encode (.stop c) s, fun arg freq count hillegal => ?_, fun hc hid => ?_, fun t hc hid => ?_⟩
  · rw [runCommand_illegalWord ((illegalWord_pack_formatN (Or.inl rfl)).mpr hillegal), illegal_eq]
  · rw [exec_stop (hasSlot_eq_true.mpr hc), doStop_invalid hid]
    rfl
  · have hresponse : responseWord 0 0 0 = 0x00000000 := rfl
    rw [exec_stop (hasSlot_eq_true.mpr hc), doStop_valid hid]
    simp only [State.respond, hresponse, haltWrites, List.append_assoc, List.cons_append, List.nil_append]
    rfl

/-- Settles O27: after a STOP the slot is stopped and its timer quiet, and so it is by the invariants on an Idle slot. -/
theorem stopIsIdempotent : Obligations.StopIsIdempotent := by
  intro s c
  by_cases hc : c.toNat < s.cfg.nCh
  · have slot : s.hasSlot c = true := hasSlot_eq_true.mpr hc
    refine ⟨?_, fun t hinv hunshared hid hidle => ⟨_, exec_stop slot, ?_⟩⟩
    · have slot' : ((s.doStop c).respond 0 0 0).hasSlot c = true := by
        rw [hasSlot_eq_true, respond_cfg, (doStop_frame s c).1]
        exact hc
      refine ⟨_, _, exec_stop slot, exec_stop slot', ?_⟩
      refine doStop_of_stopped (s := (s.doStop c).respond 0 0 0) ?_ ?_ (fun t hid => ?_)
      · rw [ch_respond, doStop_ch_self]
      · rw [ch_respond, doStop_ch_self]
      · rw [ch_respond, doStop_ch_self] at hid
        exact doStop_timer_quiet hid
    · refine doStop_of_stopped hidle ((hinv.idleIffStopped c).mp hidle) (fun u hu => ?_)
      exact hinv.idleQuiet hunshared c u hu hidle
  · have hillegal : ∀ u : State, u.cfg = s.cfg → exec (.stop c) u = .next u.illegal := fun u hu =>
      exec_of_noSlot rfl (hu ▸ Nat.le_of_not_lt hc)
    exact ⟨⟨_, _, hillegal s rfl, hillegal s.illegal rfl, rfl⟩, fun t _ _ _ _ => ⟨_, hillegal s rfl, rfl⟩⟩

/-- Settles O28: the registers after `do_stop` are halted, so the pin shows the cleared latch. -/
theorem stopLeavesThePinLow : Obligations.StopLeavesThePinLow := by
  intro s c t hc ht hid hdir
  have htimer : ((s.doStop c).respond 0 0 0).timer t = (s.timer t).halted := doStop_timer hid ht
  refine ⟨_, exec_stop (hasSlot_eq_true.mpr hc), ?_⟩
  rw [htimer]
  have hdir' : (s.timer t).halted.direction = 1 := hdir
  obtain ⟨hpa, hcs, hcmie, hlatch, -⟩ := halted_quiet (s.timer t)
  refine ⟨?_, hcs, hcmie⟩
  simp [TimerRegs.pinLevel, hdir', hpa, hlatch, paDisconnected, paToggleOnMatch]

/-- Settles O8, by the stimulus; a command answers one of its effects. -/
theorem everyStepAnswersANextState : Obligations.EveryStepAnswersANextState := by
  intro s
  cases hs : s.schedule with
  | nil => exact ⟨s, (stepRunsTheDecodedCommand s).2.2 hs⟩
  | cons x rest =>
    rw [step_cons hs]
    cases x with
    | command w =>
      cases hd : decode w with
      | error e => exact ⟨_, by rw [serve, runCommand, hd]⟩
      | ok i =>
        obtain ⟨s', hexec, -⟩ := exec_effect i { s with schedule := rest }
        exact ⟨s', (runCommand_of_decode hd).trans hexec⟩
    | compareMatch t => exact ⟨_, rfl⟩
    | rst platform => exact ⟨_, rfl⟩

end

section
/-! Who writes `lastError` (R130) and who writes (runState, mode) (R120), among the commands and the events. -/

namespace Sys2Proof.Machine

variable {s s' u : State} {c t m : Byte} {f n : Word} {i : Instr}

/-! ### Who writes `lastError` -/

/-- `i` is a CONSTRUCT, GENERATE or UPDATEFREQ of slot `c` (R130). -/
def SetsError (i : Instr) (c : Byte) : Prop :=
  (∃ p, i = .construct c p) ∨ (∃ m f n, i = .generate c m f n) ∨ (∃ f, i = .updatefreq c f)

theorem setsError_of_effect (h : Effect s i s') (hne : (s'.ch c).lastError ≠ (s.ch c).lastError) : SetsError i c := by
  have hslot : i.slot = some c := by
    by_contra hother
    exact hne (congrArg Channel.lastError (effect_others h hother))
  cases h with
  | illegal | isrunning | isvalid | geterror | solveFails | solves => exact absurd rfl hne
  | stops d =>
    cases hslot
    rw [ch_respond, doStop_ch_self] at hne
    exact absurd rfl hne
  | bindFails | binds => cases hslot; exact Or.inl ⟨_, rfl⟩
  | generateFails | starts => cases hslot; exact Or.inr (Or.inl ⟨_, _, _, rfl⟩)
  | updateFails | retimes => cases hslot; exact Or.inr (Or.inr ⟨_, rfl⟩)

/-- The last output is a response, of an illegal command that left the channel file, or one whose status is the
`lastError` that slot `c` now has. -/
def AnswersLastError (s s' : State) (c : Byte) : Prop :=
  ∃ r, s'.trace.getLast? = some (.response r) ∧
    ((r.extractLsb' 24 8 = 0xFF ∧ s'.channels = s.channels) ∨ r.extractLsb' 24 8 = (s'.ch c).lastError.code)

theorem getLast?_respond (s : State) (a b : Byte) (d : Half) :
    (s.respond a b d).trace.getLast? = some (.response (responseWord a b d)) := by
  rw [respond_trace, List.getLast?_concat]

theorem responseWord_status (a b : Byte) (d : Half) : (responseWord a b d).extractLsb' 24 8 = a :=
  (responseWordFields a b d).1

theorem responseWord_val8 (a b : Byte) (d : Half) : (responseWord a b d).extractLsb' 16 8 = b :=
  (responseWordFields a b d).2.1

theorem answersLastError_illegal (s : State) (c : Byte) : AnswersLastError s s.illegal c :=
  ⟨_, getLast?_respond .., Or.inl ⟨responseWord_status .., rfl⟩⟩

theorem answersLastError_respond (s : State) {e : ErrorKind} (b : Byte) (d : Half) (h : (u.ch c).lastError = e) :
    AnswersLastError s (u.respond e.code b d) c :=
  ⟨_, getLast?_respond .., Or.inr (by rw [responseWord_status, ch_respond, h])⟩

theorem answersLastError_fail (s : State) (e : ErrorKind) (hlt : c.toNat < u.channels.length) :
    AnswersLastError s (u.fail c e) c :=
  answersLastError_respond s 0 0 (by rw [ch_updCh, if_pos ⟨rfl, hlt⟩])

/-- The slot after the run that a GENERATE starts (R122). -/
theorem startRun_ch_self {md : Mode} {tm : Timing} (hv : generateVerdict s.cfg (s.ch c) m f n = .ok (t, md, tm)) :
    ((s.startRun c t md tm n).ch c).runState = .running ∧ ((s.startRun c t md tm n).ch c).mode = md ∧
      ((s.startRun c t md tm n).ch c).lastError = .none := by
  obtain ⟨hid, -, -, hm, -⟩ := generateVerdict_ok hv
  have hc : c = c ∧ c.toNat < s.channels.length := ⟨rfl, lt_of_identity hid⟩
  rcases hm with ⟨-, rfl, -⟩ | ⟨-, rfl⟩
  · rw [startRun_discrete_ch, if_pos hc]
    exact ⟨rfl, rfl, rfl⟩
  · rw [startRun_continuous_ch, if_pos hc]
    exact ⟨rfl, rfl, rfl⟩

theorem effect_answersLastError (hsized : s.Sized) (h : Effect s i s') (hi : SetsError i c) :
    AnswersLastError s s' c := by
  have hlt : s.hasSlot c = true → c.toNat < s.channels.length := fun slot => hsized.1 ▸ of_decide_eq_true slot
  rcases hi with ⟨p, rfl⟩ | ⟨m, f, n, rfl⟩ | ⟨f, rfl⟩
  · cases h with
    | illegal => exact answersLastError_illegal s c
    | bindFails _ _ slot => exact answersLastError_fail s _ ((List.length_modify ..).symm ▸ hlt slot)
    | binds _ _ t w slot =>
      refine answersLastError_respond (e := .none) s 1 0 ?_
      rw [bindTimer_ch, if_pos ⟨rfl, hlt slot⟩]
  · cases h with
    | illegal => exact answersLastError_illegal s c
    | generateFails _ _ _ _ e slot => exact answersLastError_fail s e (hlt slot)
    | starts _ _ _ _ t md tm slot hv => exact answersLastError_respond (e := .none) s 1 0 (startRun_ch_self hv).2.2
  · cases h with
    | illegal => exact answersLastError_illegal s c
    | updateFails _ _ e slot => exact answersLastError_fail s e (hlt slot)
    | retimes _ _ t tm slot =>
      refine answersLastError_respond (e := .none) s 1 0 ?_
      rw [retime_ch, if_pos ⟨rfl, hlt slot⟩]

/-! ### Who writes (runState, mode) -/

/-- A slot's run state and mode, the states of R120. -/
def Channel.phase (r : Channel) : RunState × Mode := (r.runState, r.mode)

/-- From `s` to `s'` slot `c` goes from Stopped to the mode that the code `m` names, and the answer is success (R120,
R122). -/
structure StartsRun (s s' : State) (c m : Byte) : Prop where
  idle : (s.ch c).runState = .idle
  running : (s'.ch c).runState = .running
  answer : s'.trace.getLast? = some (.response 0x00010000)
  mode : (m = 0x01 ∧ (s'.ch c).mode = .discrete) ∨ (m = 0x02 ∧ (s'.ch c).mode = .continuous)

theorem startRun_startsRun {md : Mode} {tm : Timing} (hv : generateVerdict s.cfg (s.ch c) m f n = .ok (t, md, tm)) :
    StartsRun s ((s.startRun c t md tm n).respond 0 1 0) c m := by
  obtain ⟨-, hnotRunning, -, hm, -⟩ := generateVerdict_ok hv
  obtain ⟨hrun, hmode, -⟩ := startRun_ch_self hv
  have hidle : (s.ch c).runState = .idle := by
    cases hrs : (s.ch c).runState with
    | idle => rfl
    | running => exact absurd hrs hnotRunning
  refine ⟨hidle, hrun, getLast?_respond .., ?_⟩
  rw [ch_respond, hmode]
  exact hm.imp (And.imp_right And.left) id

/-- A command changes the phase of a slot only by a GENERATE that starts its run, or by a STOP of it (R120). -/
theorem effect_phase (h : Effect s i s') (c : Byte) :
    (s'.ch c).phase = (s.ch c).phase ∨
    (∃ m f n, i = .generate c m f n ∧ StartsRun s s' c m) ∨
    (i = .stop c ∧ (s'.ch c).phase = (.idle, .stopped)) := by
  by_cases hslot : i.slot = some c
  · cases h with
    | illegal | isrunning | isvalid | geterror | solveFails | solves => exact Or.inl rfl
    | bindFails => rw [fail_ch, bindInvalid_ch]; left; split <;> split <;> rfl
    | binds => rw [ch_respond, bindTimer_ch]; left; split <;> rfl
    | generateFails | updateFails => rw [fail_ch]; left; split <;> rfl
    | retimes => rw [ch_respond, retime_ch]; left; split <;> rfl
    | starts d m f n t md tm slot hv =>
      cases hslot
      exact Or.inr (Or.inl ⟨m, f, n, rfl, startRun_startsRun hv⟩)
    | stops d =>
      cases hslot
      rw [ch_respond, doStop_ch_self]
      exact Or.inr (Or.inr ⟨rfl, rfl⟩)
  · exact Or.inl (congrArg Channel.phase (effect_others h hslot))

/-- A GENERATE that answers success has started a run: every other answer has `VAL8` 0 (R75, R122, R123). -/
theorem effect_startsRun (h : Effect s (.generate c m f n) s')
    (hanswer : s'.trace.getLast? = some (.response 0x00010000)) : StartsRun s s' c m := by
  have hno : ∀ (v : State) (a : Byte), (v.respond a 0 0).trace.getLast? ≠ some (.response 0x00010000) := by
    intro v a hlast
    rw [getLast?_respond] at hlast
    have hword : responseWord a 0 0 = 0x00010000 := by simpa using hlast
    have hval8 := responseWord_val8 a 0 0
    rw [hword] at hval8
    exact absurd hval8 (by decide)
  cases h with
  | illegal => exact absurd hanswer (hno s 0xFF)
  | generateFails _ _ _ _ e => exact absurd hanswer (hno _ e.code)
  | starts _ _ _ _ t md tm slot hv => exact startRun_startsRun hv

/-- The slot after the last count of the handler (R126, R159). -/
theorem handleInterrupt_last_ch (hcounts : Counts s c) (hone : (s.ch c).pulseRemaining = 1) :
    (s.handleInterrupt c).ch c = { s.ch c with pulseRemaining := 0, runState := .idle, mode := .stopped } := by
  rcases handleInterrupt_cases s c with ⟨hno, -⟩ | ⟨-, hne, -⟩ | ⟨-, -, h⟩
  · exact absurd hcounts hno
  · exact absurd hone hne
  · rw [h, doStop_ch_self, countDown_ch, if_pos ⟨rfl, lt_of_running hcounts.1⟩, hone]
    rfl

/-- An event changes the phase of a slot only by the last count of a run it counts (R120, R159). -/
theorem compareMatch_phase (s : State) (t c : Byte) :
    ((s.compareMatch t).ch c).phase = (s.ch c).phase ∨
    (s.owner t = some c ∧ Counts s c ∧ (s.ch c).pulseRemaining = 1 ∧
      (s.compareMatch t).ch c = { s.ch c with pulseRemaining := 0, runState := .idle, mode := .stopped }) := by
  rcases compareMatch_cases s t with ⟨-, h⟩ | ⟨-, -, h⟩ | ⟨d, -, -, howner, h⟩
  · exact Or.inl (by rw [h])
  · exact Or.inl (by rw [h]; rfl)
  · by_cases hcd : c = d
    · subst hcd
      rcases handleInterrupt_cases (s.flipOut t) c with ⟨-, hk⟩ | ⟨-, -, hk⟩ | ⟨hcounts, hone, -⟩
      · exact Or.inl (by rw [h, hk]; rfl)
      · left
        rw [h, hk, countDown_ch]
        split <;> rfl
      · exact Or.inr ⟨howner, hcounts, hone, h ▸ handleInterrupt_last_ch hcounts hone⟩
    · exact Or.inl (by rw [h, handleInterrupt_others _ hcd]; rfl)

theorem compareMatch_last_ch (hcs : (s.timer t).cs ≠ 0) (hcmie : (s.timer t).cmie = 1) (howner : s.owner t = some c)
    (hcounts : Counts s c) (hone : (s.ch c).pulseRemaining = 1) :
    (s.compareMatch t).ch c = { s.ch c with pulseRemaining := 0, runState := .idle, mode := .stopped } := by
  rcases compareMatch_cases s t with ⟨hhalted, -⟩ | ⟨-, hmasked | hnone, -⟩ | ⟨d, -, -, hd, h⟩
  · exact absurd hhalted hcs
  · exact absurd hcmie hmasked
  · rw [howner] at hnone
    cases hnone
  · obtain rfl : c = d := Option.some.inj (howner.symm.trans hd)
    exact h ▸ handleInterrupt_last_ch (s := s.flipOut t) hcounts hone

/-- The last count in either spelling. -/
theorem toNat_eq_one_iff {x : ToggleCount} : x.toNat = 1 ↔ x = 1 := by
  constructor <;> intro h
  · exact BitVec.eq_of_toNat_eq h
  · rw [h]; rfl

/-- A step whose command decodes has that command's effect. -/
theorem effect_of_step {w : CommandWord} {rest : List Stimulus} (hs : s.schedule = .command w :: rest)
    (hd : decode w = .ok i) (h : step s = .next s') : Effect { s with schedule := rest } i s' := by
  rw [step_command hs, runCommand_of_decode hd] at h
  exact effect_of_exec h

/-- A step but a reset keeps the phase of slot `c`, or makes one of the three arrows of R120's table, for its cause. -/
theorem step_phase (h : step s = .next s') (hrst : ∀ platform rest, s.schedule ≠ .rst platform :: rest) (c : Byte) :
    (s'.ch c).phase = (s.ch c).phase ∨
    (∃ w rest m f n, s.schedule = .command w :: rest ∧ decode w = .ok (.generate c m f n) ∧ StartsRun s s' c m) ∨
    (∃ w rest, s.schedule = .command w :: rest ∧ decode w = .ok (.stop c) ∧ (s'.ch c).phase = (.idle, .stopped)) ∨
    (∃ t rest, s.schedule = .compareMatch t :: rest ∧ s.owner t = some c ∧ Counts s c ∧
      (s.ch c).pulseRemaining = 1 ∧
      s'.ch c = { s.ch c with pulseRemaining := 0, runState := .idle, mode := .stopped }) := by
  rcases step_cases h with ⟨-, rfl⟩ | ⟨w, rest, -, -, rfl⟩ | ⟨w, rest, i, hs, hd, he⟩ | ⟨t, rest, hs, rfl⟩ |
    ⟨p, rest, hs, -⟩
  · exact Or.inl rfl
  · exact Or.inl rfl
  · rcases effect_phase he c with hsame | ⟨m, f, n, rfl, hidle, hrun, hanswer, hmode⟩ | ⟨rfl, hstopped⟩
    · exact Or.inl hsame
    · exact Or.inr (Or.inl ⟨w, rest, m, f, n, hs, hd, hidle, hrun, hanswer, hmode⟩)
    · exact Or.inr (Or.inr (Or.inl ⟨w, rest, hs, hd, hstopped⟩))
  · rcases compareMatch_phase { s with schedule := rest } t c with hsame | hlast
    · exact Or.inl hsame
    · exact Or.inr (Or.inr (Or.inr ⟨t, rest, hs, hlast⟩))
  · exact absurd hs (hrst p rest)

end Sys2Proof.Machine

open Sys2Proof Sys2Proof.Machine

/-- Settles O31: a command's effects write `lastError` in the three commands only, an event never, and each of the three
answers what it stored. -/
theorem onlyThreeCommandsWriteLastError : Obligations.OnlyThreeCommandsWriteLastError := by
  refine ⟨fun s s' c hstep hrst hne => ?_, fun s c i hsized hi => ?_⟩
  · rcases step_cases hstep with ⟨-, rfl⟩ | ⟨w, rest, -, -, rfl⟩ | ⟨w, rest, i, hs, hd, he⟩ | ⟨t, rest, -, rfl⟩ |
      ⟨p, rest, hs, -⟩
    · exact absurd rfl hne
    · exact absurd rfl hne
    · exact ⟨w, rest, i, hs, hd, setsError_of_effect (s := { s with schedule := rest }) he hne⟩
    · obtain ⟨-, -, -, -, -, hkeeps⟩ := compareMatch_keeps { s with schedule := rest } t c
      exact absurd hkeeps hne
    · exact absurd hs (hrst p rest)
  · obtain ⟨s', hexec, he⟩ := exec_effect i s
    obtain ⟨r, hanswer⟩ := effect_answersLastError hsized he hi
    exact ⟨s', r, hexec, hanswer⟩

/-- Settles O44: a step is one of the arrows of `step_phase`, and each of the three causes makes its arrow. -/
theorem stateMachineFollowsTheTransitionTable : Obligations.StateMachineFollowsTheTransitionTable := by
  intro s s' c hidle hstep hrst
  refine ⟨?_, fun w rest m f n hs hd hanswer => ?_, fun w rest hs hd hc => ?_,
    fun t rest hs hcs hcmie howner hmode hone => ?_⟩
  · rcases step_phase hstep hrst c with hsame | ⟨w, rest, m, f, n, hs, hd, hstart⟩ | ⟨w, rest, hs, hd, hstopped⟩ |
      ⟨t, rest, hs, howner, ⟨hrun, hmode, -⟩, hone, hlast⟩
    · exact Or.inl (Prod.mk.inj hsame)
    · exact Or.inr (Or.inl ⟨hstart.idle, hstart.running, w, rest, m, f, n, hs, hd, hstart.answer, hstart.mode⟩)
    · obtain ⟨hrun', hmode'⟩ := Prod.mk.inj hstopped
      cases hrun : (s.ch c).runState with
      | idle => exact Or.inl ⟨hrun', hmode'.trans (hidle.mp hrun).symm⟩
      | running => exact Or.inr (Or.inr ⟨rfl, hrun', hmode', Or.inl ⟨w, rest, hs, hd⟩⟩)
    · rw [hlast]
      exact Or.inr (Or.inr ⟨hrun, rfl, rfl, Or.inr ⟨t, rest, hs, howner, hmode, toNat_eq_one_iff.mpr hone, rfl⟩⟩)
  · obtain ⟨-, hrun, -, hmode⟩ := effect_startsRun (effect_of_step hs hd hstep) hanswer
    refine ⟨hrun, ?_⟩
    rcases hmode with ⟨rfl, hmode⟩ | ⟨rfl, hmode⟩ <;> exact hmode
  · have slot : ({ s with schedule := rest } : State).hasSlot c = true := hasSlot_eq_true.mpr hc
    rw [step_command hs, runCommand_of_decode hd, exec_stop slot] at hstep
    cases hstep
    rw [ch_respond, doStop_ch_self]
    exact ⟨rfl, rfl⟩
  · have hrun : (s.ch c).runState = .running := by
      cases hrs : (s.ch c).runState with
      | idle => simp [hidle.mp hrs] at hmode
      | running => rfl
    have hone' := toNat_eq_one_iff.mp hone
    have hcounts : Counts s c := ⟨hrun, hmode, by rw [hone']; decide⟩
    rw [step_cons hs] at hstep
    cases hstep
    rw [compareMatch_last_ch (s := { s with schedule := rest }) hcs hcmie howner hcounts hone']
    exact ⟨rfl, rfl⟩

end

section
/-! Which command reports which error (R152), and the level of the pin (R168). -/

namespace Sys2Proof.Machine

variable {s s' : State} {cfg : Config} {r : Channel} {e : ErrorKind}

/-! ### The error lists -/

/-- The errors a legal command can report (R152). -/
def errorsOf : Instr → List ErrorKind
  | .construct _ _    => [.invalidPin]
  | .generate _ _ _ _ => [.invalidPin, .alreadyActive, .zeroFrequency, .invalidMode, .zeroPulses, .frequencyOutOfRange]
  | .updatefreq _ _   => [.invalidPin, .notRunning, .zeroFrequency, .frequencyOutOfRange]
  | .solve _ _        => [.zeroFrequency, .frequencyOutOfRange]
  | .stop _ | .isrunning _ | .isvalid _ | .geterror _ => []

theorem generateVerdict_error {c m : Byte} {f n : Word} (h : generateVerdict cfg r m f n = .error e) :
    e ∈ errorsOf (.generate c m f n) := by
  unfold generateVerdict at h
  repeat' split at h
  all_goals cases h
  all_goals simp [errorsOf]

theorem updateVerdict_error {c : Byte} {f : Word} (h : updateVerdict cfg r f = .error e) :
    e ∈ errorsOf (.updatefreq c f) := by
  unfold updateVerdict at h
  repeat' split at h
  all_goals cases h
  all_goals simp [errorsOf]

theorem solveVerdict_error {w : Width} {wcode : Byte} {f : Word} (h : solveVerdict cfg w f = .error e) :
    e ∈ errorsOf (.solve wcode f) := by
  unfold solveVerdict at h
  repeat' split at h
  all_goals cases h
  all_goals simp [errorsOf]

/-- The statuses a legal command can answer (R75, R152). -/
def statusesOf (i : Instr) : List Byte := 0 :: (errorsOf i).map ErrorKind.code

theorem zero_mem_statusesOf (i : Instr) : 0 ∈ statusesOf i := List.mem_cons_self

theorem code_mem_statusesOf {i : Instr} (h : e ∈ errorsOf i) : e.code ∈ statusesOf i :=
  List.mem_cons_of_mem 0 (List.mem_map_of_mem h)

/-- 0xFF is the status of an illegal command alone (R75). -/
theorem ne_illegal_of_mem_statusesOf {i : Instr} {a : Byte} (h : a ∈ statusesOf i) : a ≠ 0xFF := by
  rcases List.mem_cons.mp h with rfl | h
  · decide
  · obtain ⟨e, -, rfl⟩ := List.mem_map.mp h
    cases e <;> decide

/-- A legal command ends in a response with one of its statuses. -/
theorem effect_status {i : Instr} (h : Effect s i s') (hlegal : ¬ IllegalOperands s i) :
    ∃ u a b d, s' = State.respond u a b d ∧ a ∈ statusesOf i := by
  cases h with
  | illegal _ hillegal => exact absurd hillegal hlegal
  | isrunning | isvalid | geterror | solves | binds | starts | retimes | stops =>
    exact ⟨_, _, _, _, rfl, zero_mem_statusesOf _⟩
  | solveFails _ _ _ _ _ hv => exact ⟨_, _, _, _, rfl, code_mem_statusesOf (solveVerdict_error hv)⟩
  | bindFails => exact ⟨_, _, _, _, rfl, code_mem_statusesOf (List.mem_singleton.mpr rfl)⟩
  | generateFails _ _ _ _ _ _ hv => exact ⟨_, _, _, _, rfl, code_mem_statusesOf (generateVerdict_error hv)⟩
  | updateFails _ _ _ _ hv => exact ⟨_, _, _, _, rfl, code_mem_statusesOf (updateVerdict_error hv)⟩

/-- Every command answers, with 0xFF exactly when it is illegal and with one of its statuses otherwise. -/
theorem exec_answer (i : Instr) (s : State) : ∃ s' a b d,
    exec i s = .next s' ∧ s'.trace.getLast? = some (.response (responseWord a b d)) ∧
      (a = 0xFF ↔ IllegalOperands s i) ∧ (a ≠ 0xFF → a ∈ statusesOf i) := by
  by_cases hillegal : IllegalOperands s i
  · exact ⟨_, 0xFF, 0, 0, exec_illegalOperands hillegal, getLast?_respond .., iff_of_true rfl hillegal,
      absurd rfl⟩
  · obtain ⟨s', hexec, heffect⟩ := exec_effect i s
    obtain ⟨u, a, b, d, rfl, ha⟩ := effect_status heffect hillegal
    exact ⟨_, a, b, d, hexec, getLast?_respond .., iff_of_false (ne_illegal_of_mem_statusesOf ha) hillegal,
      fun _ => ha⟩

/-- The handler writes no error (R130). -/
theorem handleInterrupt_lastError (s : State) (c d : Byte) :
    ((s.handleInterrupt c).ch d).lastError = (s.ch d).lastError := by
  have hcount : ((s.countDown c).ch d).lastError = (s.ch d).lastError := by
    rw [countDown_ch]
    split <;> rfl
  rcases handleInterrupt_cases s c with ⟨-, h⟩ | ⟨-, -, h⟩ | ⟨-, -, h⟩ <;> rw [h]
  · exact hcount
  · rw [doStop_ch, ← hcount]
    split <;> rfl

/-! ### The level of the pin -/

variable {x : TimerRegs}

theorem pinLevel_connected (hdir : x.direction = 1) (hpa : x.pa = paToggleOnMatch) : x.pinLevel = some x.out := by
  have hdriven : x.direction ≠ 0 := by rw [hdir]; decide
  rw [TimerRegs.pinLevel, if_neg hdriven, if_pos hpa]

theorem pinLevel_disconnected (hdir : x.direction = 1) (hpa : x.pa = paDisconnected) :
    x.pinLevel = some (x.latch == 1) := by
  have hdriven : x.direction ≠ 0 := by rw [hdir]; decide
  have hconnected : x.pa ≠ paToggleOnMatch := by rw [hpa]; decide
  rw [TimerRegs.pinLevel, if_neg hdriven, if_neg hconnected, if_pos hpa]

/-- An output pin on a quiet timer is LOW (R168, I2 of R39). -/
theorem pinLevel_quiet (hdir : x.direction = 1) (hquiet : x.Quiet) : x.pinLevel = some false := by
  obtain ⟨hpa, -, -, hlatch, -⟩ := hquiet
  rw [pinLevel_disconnected hdir hpa, hlatch]
  rfl

end Sys2Proof.Machine

open Sys2Proof Sys2Proof.Machine

/-- Settles O30: a command is refused for its operands, or is legal and answers from its own list. -/
theorem eachCommandReportsOnlyItsOwnErrors : Obligations.EachCommandReportsOnlyItsOwnErrors := by
  intro s i
  obtain ⟨s', a, b, d, hexec, hlast, hillegal, hstatus⟩ := exec_answer i s
  refine ⟨s', responseWord a b d, hexec, hlast, ?_, ?_, handleInterrupt_lastError s⟩
  · rw [responseWord_status, illegalWord_encode]
    exact hillegal
  · rw [responseWord_status]
    cases i <;> exact hstatus

/-- Settles O36: the level by direction and pin action, and the side effect of a write of `CRA`. -/
theorem pinLevelFollowsTheRegisters : Obligations.PinLevelFollowsTheRegisters := by
  intro r
  have hlatch : ∀ x : Byte, (x.extractLsb' 0 1 == 1) = x.getLsbD 0 := by decide
  refine ⟨fun hdir => if_pos hdir, pinLevel_connected, fun hdir hpa => ?_, fun value mask hpa => if_pos hpa⟩
  rw [pinLevel_disconnected hdir hpa]
  exact congrArg some (hlatch r.port)

end

section
/-! The compare-match event (R158, R159, R167) by its branches; that it looks at and changes its own timer and that
timer's owner only, so that events of two timers commute (R163). -/

namespace Sys2Proof.Machine

variable {s s' : State} {c d t u : Byte}

/-! ### The handler, branch by branch -/

/-- A slot after its last count (R126, R159). -/
def Channel.ended (r : Channel) : Channel := { r with pulseRemaining := 0, runState := .idle, mode := .stopped }

theorem modify_congr_getD {α : Type} {l : List α} {i : Nat} {f g : α → α} (a : α)
    (h : f (l.getD i a) = g (l.getD i a)) : l.modify i f = l.modify i g := by
  let _ : Inhabited α := ⟨a⟩
  rw [List.modify_eq_set, List.modify_eq_set]
  exact congrArg (l.set i) h

theorem handleInterrupt_of_not_counts (h : ¬ Counts s c) : s.handleInterrupt c = s := if_neg h

theorem handleInterrupt_count (h : Counts s c) (hne : (s.ch c).pulseRemaining ≠ 1) :
    s.handleInterrupt c = s.countDown c := by
  rcases handleInterrupt_cases s c with ⟨hno, -⟩ | ⟨-, -, hk⟩ | ⟨-, hone, -⟩
  · exact absurd h hno
  · exact hk
  · exact absurd hone hne

theorem handleInterrupt_last (h : Counts s c) (hone : (s.ch c).pulseRemaining = 1) :
    s.handleInterrupt c = (s.countDown c).doStop c := by
  rcases handleInterrupt_cases s c with ⟨hno, -⟩ | ⟨-, hne, -⟩ | ⟨-, -, hk⟩
  · exact absurd h hno
  · exact absurd hone hne
  · exact hk

/-- The channel file after the last count. -/
theorem modify_last (hone : (s.ch c).pulseRemaining = 1) :
    s.channels.modify c.toNat
      (fun r => { r with pulseRemaining := r.pulseRemaining - 1, runState := .idle, mode := .stopped }) =
    s.channels.modify c.toNat Channel.ended := by
  refine modify_congr_getD Channel.initial ?_
  show ({ s.ch c with pulseRemaining := (s.ch c).pulseRemaining - 1, runState := .idle, mode := .stopped } : Channel) =
    (s.ch c).ended
  rw [hone]
  rfl

theorem handleInterrupt_last_valid (h : Counts s c) (hone : (s.ch c).pulseRemaining = 1)
    (hid : (s.ch c).timerIdentity = some u) :
    s.handleInterrupt c = s.change c u Channel.ended TimerRegs.halted (s.trace ++ haltWrites u) := by
  rw [handleInterrupt_last h hone, countDown_doStop_eq_change hid, State.change, modify_last hone]
  rfl

theorem handleInterrupt_last_invalid (h : Counts s c) (hone : (s.ch c).pulseRemaining = 1)
    (hid : (s.ch c).timerIdentity = none) : s.handleInterrupt c = s.updCh c Channel.ended := by
  have hid' : ((s.countDown c).ch c).timerIdentity = none := by
    rw [countDown_ch, if_pos ⟨rfl, lt_of_running h.1⟩]
    exact hid
  rw [handleInterrupt_last h hone, doStop_invalid hid', State.countDown, State.updCh, State.updCh, State.updCh,
    ← modify_last hone, List.modify_modify_eq]
  rfl

/-! ### The event, branch by branch -/

/-- An event of `t` is counted on slot `c`: the timer runs with its interrupt enabled, and `c` owns it and counts. -/
structure Counted (s : State) (t c : Byte) : Prop where
  clocked : (s.timer t).cs ≠ 0
  enabled : (s.timer t).cmie = 1
  owned : s.owner t = some c
  counts : Counts s c

theorem toggle_eq (r : TimerRegs) :
    r.toggle = { r with out := if r.pa = paToggleOnMatch then !r.out else r.out } := by
  unfold TimerRegs.toggle
  split <;> rfl

theorem compareMatch_of_halted (h : (s.timer t).cs = 0) : s.compareMatch t = s := if_pos h

theorem compareMatch_of_uncounted (hcs : (s.timer t).cs ≠ 0) (h : ∀ c, ¬ Counted s t c) :
    s.compareMatch t = s.flipOut t := by
  rcases compareMatch_cases s t with ⟨hhalted, -⟩ | ⟨-, -, hk⟩ | ⟨c, -, hcmie, howner, hk⟩
  · exact absurd hhalted hcs
  · exact hk
  · have hno : ¬ Counts (s.flipOut t) c := fun hcounts => h c ⟨hcs, hcmie, howner, hcounts⟩
    rw [hk, handleInterrupt_of_not_counts hno]

theorem Counted.compareMatch (h : Counted s t c) : s.compareMatch t = (s.flipOut t).handleInterrupt c := by
  rcases compareMatch_cases s t with ⟨hhalted, -⟩ | ⟨-, hmasked | hnone, -⟩ | ⟨d, -, -, hd, hk⟩
  · exact absurd hhalted h.clocked
  · exact absurd h.enabled hmasked
  · rw [h.owned] at hnone
    cases hnone
  · obtain rfl : c = d := Option.some.inj (h.owned.symm.trans hd)
    exact hk

theorem Counted.compareMatch_count (h : Counted s t c) (hne : (s.ch c).pulseRemaining ≠ 1) :
    s.compareMatch t = (s.flipOut t).countDown c := by
  rw [h.compareMatch]
  exact handleInterrupt_count (s := s.flipOut t) h.counts hne

theorem Counted.compareMatch_last_valid (h : Counted s t c) (hone : (s.ch c).pulseRemaining = 1)
    (hid : (s.ch c).timerIdentity = some u) : s.compareMatch t =
      (s.flipOut t).change c u Channel.ended TimerRegs.halted (s.trace ++ haltWrites u) := by
  rw [h.compareMatch]
  exact handleInterrupt_last_valid (s := s.flipOut t) h.counts hone hid

theorem Counted.compareMatch_last_invalid (h : Counted s t c) (hone : (s.ch c).pulseRemaining = 1)
    (hid : (s.ch c).timerIdentity = none) : s.compareMatch t = (s.flipOut t).updCh c Channel.ended := by
  rw [h.compareMatch]
  exact handleInterrupt_last_invalid (s := s.flipOut t) h.counts hone hid

/-! ### What an event looks at and what it changes -/

/-- `s'` agrees with `s` in all that an event of `t` looks at: the timer, its owner, the owner's slot (R158, R159). -/
structure AgreesAt (s s' : State) (t : Byte) : Prop where
  timer : s'.timer t = s.timer t
  owner : s'.owner t = s.owner t
  slot : ∀ c, s.owner t = some c → s'.ch c = s.ch c

theorem agreesAt_refl (s : State) (t : Byte) : AgreesAt s s t := ⟨rfl, rfl, fun _ _ => rfl⟩

theorem AgreesAt.symm (h : AgreesAt s s' t) : AgreesAt s' s t :=
  ⟨h.timer.symm, h.owner.symm, fun c hc => (h.slot c (h.owner ▸ hc)).symm⟩

theorem Counted.of_agreesAt (h : Counted s t c) (ha : AgreesAt s s' t) : Counted s' t c := by
  obtain ⟨hcs, hcmie, howner, hcounts⟩ := h
  refine ⟨by rwa [ha.timer], by rwa [ha.timer], by rwa [ha.owner], ?_⟩
  rw [Counts, ha.slot c howner]
  exact hcounts

/-- `f` applied to the slot of an owner, if there is one. -/
def modifyOwned (l : List Channel) (f : Channel → Channel) : Option Byte → List Channel
  | none   => l
  | some c => l.modify c.toNat f

theorem modifyOwned_comm (l : List Channel) (f g : Channel → Channel) {o p : Option Byte}
    (h : ∀ c d, o = some c → p = some d → c ≠ d) :
    modifyOwned (modifyOwned l f o) g p = modifyOwned (modifyOwned l g p) f o := by
  cases o with
  | none => rfl
  | some c =>
    cases p with
    | none => rfl
    | some d => exact List.modify_modify_ne f g l (fun hcd => h c d rfl rfl (BitVec.eq_of_toNat_eq hcd))

/-- `f` applied to the slot of the owner of timer `t`, `g` to the registers of `t`, and the writes `w` recorded. -/
def State.changeOwned (s : State) (t : Byte) (f : Channel → Channel) (g : TimerRegs → TimerRegs) (w : List Output) :
    State :=
  { s with
    channels := modifyOwned s.channels f (s.owner t)
    timers := s.timers.modify t.toNat g
    trace := s.trace ++ w }

theorem changeOwned_of_owner (f : Channel → Channel) (g : TimerRegs → TimerRegs) (w : List Output)
    (h : s.owner t = some c) : s.changeOwned t f g w = s.change c t f g (s.trace ++ w) := by
  rw [State.changeOwned, h]
  rfl

theorem changeOwned_id (s : State) (t : Byte) (g : TimerRegs → TimerRegs) :
    s.changeOwned t id g [] = { s with timers := s.timers.modify t.toNat g } := by
  rw [State.changeOwned, List.append_nil]
  cases s.owner t with
  | none => rfl
  | some c => rw [modifyOwned, List.modify_id]

/-- An event of `t` is one change of `t` and of its owner's slot, and which change depends on these two alone. -/
theorem compareMatch_eq_changeOwned (hreg : s.RegistryConsistent) (t : Byte) :
    ∃ f g w, ∀ s', AgreesAt s s' t → s'.compareMatch t = s'.changeOwned t f g w := by
  by_cases hcs : (s.timer t).cs = 0
  · refine ⟨id, id, [], fun s' ha => ?_⟩
    rw [compareMatch_of_halted (ha.timer ▸ hcs), changeOwned_id, List.modify_id]
  by_cases hcounted : ∃ c, Counted s t c
  · obtain ⟨c, h⟩ := hcounted
    by_cases hone : (s.ch c).pulseRemaining = 1
    · refine ⟨Channel.ended, TimerRegs.halted ∘ TimerRegs.toggle, haltWrites t, fun s' ha => ?_⟩
      have h' := h.of_agreesAt ha
      have hch := ha.slot c h.owned
      rw [h'.compareMatch_last_valid (hch ▸ hone) (hch ▸ hreg t c h.owned), changeOwned_of_owner _ _ _ h'.owned]
      simp only [State.change, State.flipOut, List.modify_modify_eq]
    · refine ⟨fun r => { r with pulseRemaining := r.pulseRemaining - 1 }, TimerRegs.toggle, [], fun s' ha => ?_⟩
      have h' := h.of_agreesAt ha
      rw [h'.compareMatch_count (ha.slot c h.owned ▸ hone), changeOwned_of_owner _ _ _ h'.owned, List.append_nil]
      rfl
  · refine ⟨id, TimerRegs.toggle, [], fun s' ha => ?_⟩
    have hno : ∀ c, ¬ Counted s' t c := fun c hc => hcounted ⟨c, hc.of_agreesAt ha.symm⟩
    rw [compareMatch_of_uncounted (ha.timer ▸ hcs) hno, changeOwned_id]
    rfl

/-- Different timers have different owners (R163). -/
theorem owners_ne (hreg : s.RegistryConsistent) (htu : t ≠ u) (ht : s.owner t = some c) (hu : s.owner u = some d) :
    c ≠ d := by
  rintro rfl
  exact htu (Option.some.inj ((hreg t c ht).symm.trans (hreg u c hu)))

theorem changeOwned_agreesAt (hreg : s.RegistryConsistent) (htu : t ≠ u) (f : Channel → Channel)
    (g : TimerRegs → TimerRegs) (w : List Output) : AgreesAt s (s.changeOwned t f g w) u := by
  refine ⟨?_, rfl, fun d hd => ?_⟩
  · exact (change_timer s 0 t u f g []).trans (if_neg (fun h => htu h.1))
  · cases ht : s.owner t with
    | none =>
      rw [State.changeOwned, ht]
      rfl
    | some c =>
      rw [changeOwned_of_owner _ _ _ ht, change_ch, if_neg (fun h => owners_ne hreg htu ht hd h.1)]

/-- An event leaves all that the events of another timer look at (R163). -/
theorem compareMatch_agreesAt (hreg : s.RegistryConsistent) (htu : t ≠ u) : AgreesAt s (s.compareMatch t) u := by
  obtain ⟨f, g, w, h⟩ := compareMatch_eq_changeOwned hreg t
  rw [h s (agreesAt_refl s t)]
  exact changeOwned_agreesAt hreg htu f g w

theorem changeOwned_comm (hreg : s.RegistryConsistent) (htu : t ≠ u) (f f' : Channel → Channel)
    (g g' : TimerRegs → TimerRegs) (w w' : List Output) :
    { (s.changeOwned t f g w).changeOwned u f' g' w' with trace := [] } =
      { (s.changeOwned u f' g' w').changeOwned t f g w with trace := [] } := by
  have hne : t.toNat ≠ u.toNat := fun h => htu (BitVec.eq_of_toNat_eq h)
  have hchannels := modifyOwned_comm s.channels f f' (fun _ _ => owners_ne hreg htu)
  have htimers := List.modify_modify_ne g g' s.timers hne
  show ({ s with channels := _, timers := _, trace := [] } : State) = { s with channels := _, timers := _, trace := [] }
  exact congrArg₂ (fun channels timers => ({ s with channels, timers, trace := [] } : State)) hchannels htimers

/-- Two events of different timers, in either order (R163). -/
theorem compareMatch_comm (hreg : s.RegistryConsistent) (htu : t ≠ u) :
    { (s.compareMatch t).compareMatch u with trace := [] } = { (s.compareMatch u).compareMatch t with trace := [] } := by
  obtain ⟨f, g, w, ht⟩ := compareMatch_eq_changeOwned hreg t
  obtain ⟨f', g', w', hu⟩ := compareMatch_eq_changeOwned hreg u
  rw [hu _ (compareMatch_agreesAt hreg htu), ht _ (compareMatch_agreesAt hreg htu.symm), ht s (agreesAt_refl s t),
    hu s (agreesAt_refl s u)]
  exact changeOwned_comm hreg htu f f' g g' w w'

/-! ### A schedule of events -/

theorem doStop_withSchedule (s : State) (c : Byte) (l : List Stimulus) :
    ({ s with schedule := l } : State).doStop c = { s.doStop c with schedule := l } := by
  cases hid : (s.ch c).timerIdentity with
  | none =>
    rw [doStop_invalid hid, doStop_invalid (s := { s with schedule := l }) hid]
    rfl
  | some t => rw [doStop_valid hid, doStop_valid (s := { s with schedule := l }) hid]

theorem handleInterrupt_withSchedule (s : State) (c : Byte) (l : List Stimulus) :
    ({ s with schedule := l } : State).handleInterrupt c = { s.handleInterrupt c with schedule := l } := by
  rcases handleInterrupt_cases s c with ⟨hno, h⟩ | ⟨hcounts, hne, h⟩ | ⟨hcounts, hone, h⟩ <;> rw [h]
  · exact handleInterrupt_of_not_counts (s := { s with schedule := l }) hno
  · exact handleInterrupt_count (s := { s with schedule := l }) hcounts hne
  · rw [handleInterrupt_last (s := { s with schedule := l }) hcounts hone]
    exact doStop_withSchedule (s.countDown c) c l

/-- An event does not look at what is still to come. -/
theorem compareMatch_withSchedule (s : State) (t : Byte) (l : List Stimulus) :
    ({ s with schedule := l } : State).compareMatch t = { s.compareMatch t with schedule := l } := by
  have ha : AgreesAt s { s with schedule := l } t := ⟨rfl, rfl, fun _ _ => rfl⟩
  by_cases hcs : (s.timer t).cs = 0
  · rw [compareMatch_of_halted hcs]
    exact compareMatch_of_halted (s := { s with schedule := l }) hcs
  by_cases hcounted : ∃ c, Counted s t c
  · obtain ⟨c, h⟩ := hcounted
    rw [(h.of_agreesAt ha).compareMatch, h.compareMatch]
    exact handleInterrupt_withSchedule (s.flipOut t) c l
  · have hno : ∀ c, ¬ Counted { s with schedule := l } t c := fun c h => hcounted ⟨c, h.of_agreesAt ha.symm⟩
    rw [compareMatch_of_uncounted hcs (fun c h => hcounted ⟨c, h⟩),
      compareMatch_of_uncounted (s := { s with schedule := l }) hcs hno]
    rfl

/-- The events of the timers listed, first one first. -/
def State.compareMatches (s : State) (l : List Byte) : State := l.foldl State.compareMatch s

theorem step_event {rest : List Stimulus} (hs : s.schedule = .compareMatch t :: rest) :
    step s = .next (({ s with schedule := rest } : State).compareMatch t) := step_cons hs

theorem stepN_events (s : State) (l : List Byte) (rest : List Stimulus) :
    stepN l.length { s with schedule := l.map .compareMatch ++ rest } =
      .next { s.compareMatches l with schedule := rest } := by
  induction l generalizing s with
  | nil => rfl
  | cons t l ih =>
    rw [List.length_cons, stepN, List.map_cons, List.cons_append, step_event rfl]
    show stepN l.length (({ s with schedule := l.map .compareMatch ++ rest } : State).compareMatch t) = _
    rw [compareMatch_withSchedule]
    exact ih (s.compareMatch t)

/-- The same for events of one timer at the head of a schedule. -/
theorem stepN_replicate {j : Nat} {rest : List Stimulus}
    (hs : s.schedule = List.replicate j (.compareMatch t) ++ rest) :
    stepN j s = .next { s.compareMatches (List.replicate j t) with schedule := rest } := by
  have h := stepN_events s (List.replicate j t) rest
  rw [List.length_replicate, List.map_replicate, ← hs] at h
  exact h

end Sys2Proof.Machine

open Sys2Proof Sys2Proof.Machine

/-- Settles O32: the event is taken from the schedule, and the halted timer drops it. -/
theorem haltedTimerHasNoEvent : Obligations.HaltedTimerHasNoEvent := by
  intro s t rest hs hcs
  rw [step_event hs, compareMatch_of_halted (s := { s with schedule := rest }) hcs]

/-- Settles O34, by the branches of the event: not counted, a count, the last count. -/
theorem compareMatchTogglesAndCounts : Obligations.CompareMatchTogglesAndCounts := by
  intro s t rest hs hcs flip toggled
  have hflip : flip = TimerRegs.toggle := funext fun r => (toggle_eq r).symm
  have htoggled : toggled = ({ s with schedule := rest } : State).flipOut t := by
    simp only [toggled, hflip, State.flipOut]
  have huncounted : (∀ c, ¬ Counted { s with schedule := rest } t c) → step s = .next toggled := fun h => by
    rw [step_event hs, compareMatch_of_uncounted (s := { s with schedule := rest }) hcs h, htoggled]
  by_cases hcmie : (s.timer t).cmie = 0
  · rw [if_pos hcmie]
    exact huncounted fun c h => absurd (hcmie.symm.trans h.enabled) (by decide)
  rw [if_neg hcmie]
  have henabled : (s.timer t).cmie = 1 := (BitVec.eq_zero_or_eq_one _).resolve_left hcmie
  cases howner : s.owner t with
  | none => exact huncounted fun c h => Option.some_ne_none c (h.owned.symm.trans howner)
  | some c =>
    dsimp only
    split
    · rename_i hcounts
      obtain ⟨hrun, hmode, hpos⟩ := hcounts
      have h : Counted { s with schedule := rest } t c := ⟨hcs, henabled, howner, hrun, hmode, hpos⟩
      split_ifs with hmore
      · have hne : (s.ch c).pulseRemaining ≠ 1 := fun hone => by simp [hone] at hmore
        rw [step_event hs, h.compareMatch_count hne, htoggled]
        rfl
      · have hone : (s.ch c).pulseRemaining = 1 := toNat_eq_one_iff.mp (by omega)
        cases hid : (s.ch c).timerIdentity with
        | none =>
          dsimp only
          rw [step_event hs, h.compareMatch_last_invalid hone hid, htoggled]
          rfl
        | some u =>
          dsimp only
          rw [step_event hs, h.compareMatch_last_valid hone hid, htoggled]
          rfl
    · rename_i hcounts
      refine huncounted fun d h => hcounts ?_
      obtain rfl : c = d := Option.some.inj (howner.symm.trans h.owned)
      exact h.counts

/-- Settles O35: each event is one change of its timer and of the slot of that timer's owner, and the two pairs are
disjoint. -/
theorem eventsOfDifferentTimersCommute : Obligations.EventsOfDifferentTimersCommute := by
  intro s t u rest htu hreg
  refine ⟨_, _, stepN_events s [t, u] rest, stepN_events s [u, t] rest, ?_⟩
  exact congrArg (fun a : State => { a with schedule := rest }) (compareMatch_comm hreg htu)

end

section
/-! A Discrete run event by event, from the GENERATE that starts it to the last count (R110, R122, R159). -/

namespace Sys2Proof.Machine

variable {s : State} {c t : Byte} {k : Nat} {level : Bool}

/-- A slot on timer `t` that runs in Discrete mode with `k` toggles left (R23, R24). -/
structure Channel.CountsDown (r : Channel) (t : Byte) (k : Nat) : Prop where
  bound : r.timerIdentity = some t
  running : r.runState = .running
  discrete : r.mode = .discrete
  remaining : r.pulseRemaining.toNat = k

/-- A timer that runs with its interrupt enabled, its pin an output, connected, and at `level` (R168). -/
structure TimerRegs.Drives (r : TimerRegs) (level : Bool) : Prop where
  clocked : r.cs ≠ 0
  enabled : r.cmie = 1
  connected : r.pa = paToggleOnMatch
  driven : r.direction = 1
  out : r.out = level

/-- `c` owns `t` and has a Discrete run on it with `k` toggles left, the pin at `level`. -/
structure DiscreteRun (s : State) (c t : Byte) (k : Nat) (level : Bool) : Prop where
  owned : s.owner t = some c
  slot : (s.ch c).CountsDown t k
  timer : (s.timer t).Drives level

/-- `c` has stopped itself: no toggle left, Idle, its timer quiet and its pin an output (R126, R159). -/
structure RunEnded (s : State) (c t : Byte) : Prop where
  remaining : (s.ch c).pulseRemaining = 0
  idle : (s.ch c).runState = .idle
  quiet : (s.timer t).Quiet
  driven : (s.timer t).direction = 1

theorem Channel.CountsDown.decrement {r : Channel} (h : r.CountsDown t (k + 1)) :
    ({ r with pulseRemaining := r.pulseRemaining - 1 } : Channel).CountsDown t k := by
  obtain ⟨hbound, hrunning, hdiscrete, hremaining⟩ := h
  refine ⟨hbound, hrunning, hdiscrete, ?_⟩
  show (r.pulseRemaining - 1).toNat = k
  bv_omega

theorem TimerRegs.Drives.toggle {r : TimerRegs} (h : r.Drives level) : r.toggle.Drives (!level) := by
  obtain ⟨hclocked, henabled, hconnected, hdriven, hout⟩ := h
  rw [toggle_of_connected hconnected]
  exact ⟨hclocked, henabled, hconnected, hdriven, congrArg Bool.not hout⟩

theorem DiscreteRun.counted (h : DiscreteRun s c t (k + 1) level) : Counted s t c := by
  obtain ⟨howned, ⟨-, hrunning, hdiscrete, hremaining⟩, ⟨hclocked, henabled, -, -, -⟩⟩ := h
  exact ⟨hclocked, henabled, howned, hrunning, hdiscrete, by bv_omega⟩

/-- A change of the slot and the timer of a Discrete run, read back. -/
theorem DiscreteRun.change (h : DiscreteRun s c t k level) (f : Channel → Channel) (g : TimerRegs → TimerRegs)
    (tr : List Output) :
    (s.change c t f g tr).ch c = f (s.ch c) ∧ (s.change c t f g tr).timer t = g (s.timer t) := by
  rw [change_ch, change_timer, if_pos ⟨rfl, lt_of_identity h.slot.bound⟩,
    if_pos ⟨rfl, lt_of_cs_ne_zero h.timer.clocked⟩]
  exact ⟨rfl, rfl⟩

/-- An event that is not the last one takes one toggle and flips the pin (R159, R167). -/
theorem DiscreteRun.compareMatch (h : DiscreteRun s c t (k + 2) level) :
    DiscreteRun (s.compareMatch t) c t (k + 1) (!level) := by
  have hne : (s.ch c).pulseRemaining ≠ 1 := fun hone => by
    have hremaining := h.slot.remaining
    simp [hone] at hremaining
  have hevent : s.compareMatch t = s.change c t (fun r => { r with pulseRemaining := r.pulseRemaining - 1 })
      TimerRegs.toggle s.trace := h.counted.compareMatch_count hne
  obtain ⟨hch, htimer⟩ := h.change (fun r => { r with pulseRemaining := r.pulseRemaining - 1 }) TimerRegs.toggle s.trace
  rw [hevent]
  exact ⟨h.owned, hch ▸ h.slot.decrement, htimer ▸ h.timer.toggle⟩

/-- The last event stops the channel (R126, R159). -/
theorem DiscreteRun.compareMatch_last (h : DiscreteRun s c t 1 level) : RunEnded (s.compareMatch t) c t := by
  have hone : (s.ch c).pulseRemaining = 1 := toNat_eq_one_iff.mp h.slot.remaining
  have hevent : s.compareMatch t = s.change c t Channel.ended (TimerRegs.halted ∘ TimerRegs.toggle)
      (s.trace ++ haltWrites t) := by
    rw [h.counted.compareMatch_last_valid hone h.slot.bound]
    simp only [State.change, State.flipOut, List.modify_modify_eq]
  obtain ⟨hch, htimer⟩ := h.change Channel.ended (TimerRegs.halted ∘ TimerRegs.toggle) (s.trace ++ haltWrites t)
  rw [hevent]
  refine ⟨by rw [hch]; rfl, by rw [hch]; rfl, htimer ▸ halted_quiet _, ?_⟩
  rw [htimer]
  exact (toggle_direction _).trans h.timer.driven

theorem compareMatches_replicate_succ (s : State) (t : Byte) (j : Nat) :
    s.compareMatches (List.replicate (j + 1) t) = (s.compareMatches (List.replicate j t)).compareMatch t := by
  rw [State.compareMatches, List.replicate_succ', List.foldl_concat]
  rfl

/-- After `j` events, fewer than are left, the run goes on, the pin flipped by each. -/
theorem DiscreteRun.compareMatches (h : DiscreteRun s c t k level) {j : Nat} (hj : j < k) :
    DiscreteRun (s.compareMatches (List.replicate j t)) c t (k - j) (level ^^ decide (j % 2 = 1)) := by
  induction j with
  | zero => simpa [State.compareMatches] using h
  | succ j ih =>
    obtain ⟨m, rfl⟩ : ∃ m, k = m + 2 + j := ⟨k - 2 - j, by omega⟩
    have hrun := ih (by omega)
    rw [Nat.add_sub_cancel] at hrun
    have hlevel : (level ^^ decide ((j + 1) % 2 = 1)) = !(level ^^ decide (j % 2 = 1)) := by
      have hodd : (j + 1) % 2 = 1 ↔ ¬ j % 2 = 1 := by omega
      rw [decide_eq_decide.mpr hodd, decide_not, Bool.xor_not]
    have hcount : m + 2 + j - (j + 1) = m + 1 := by omega
    rw [compareMatches_replicate_succ, hlevel, hcount]
    exact hrun.compareMatch

/-- All the events that are left end the run. -/
theorem DiscreteRun.compareMatches_all (h : DiscreteRun s c t k level) (hk : k ≠ 0) :
    RunEnded (s.compareMatches (List.replicate k t)) c t := by
  obtain ⟨m, rfl⟩ := Nat.exists_eq_succ_of_ne_zero hk
  have hlast := h.compareMatches (Nat.lt_succ_self m)
  rw [Nat.succ_sub (Nat.le_refl m), Nat.sub_self] at hlast
  rw [Nat.succ_eq_add_one, compareMatches_replicate_succ]
  exact hlast.compareMatch_last

theorem prescalers_ok {cfg : Config} (h : cfg.Ok) (w : Width) : PrescaleListOk (prescalers cfg w) := by
  obtain ⟨-, h8, h16, -⟩ := h
  cases w
  · exact h8
  · exact h16

/-- The clock select of a timing is never the halting one (R8, R31). -/
theorem selector_ne_zero {cfg : Config} {f : Nat} {w : Width} {tm : Timing} (hcfg : cfg.Ok)
    (h : computeTiming cfg f w = some tm) : tm.selector ≠ 0 := by
  obtain ⟨⟨p, hp, hsel⟩, -⟩ := computeTiming_some h
  obtain ⟨-, hall, -⟩ := prescalers_ok hcfg w
  exact hsel ▸ (hall p hp).2

/-- The timer after the writes of a Discrete GENERATE (R122). -/
theorem programmed_drives {r : TimerRegs} {tm : Timing} (hsel : tm.selector ≠ 0) (hdir : r.direction = 1) :
    (r.programmed 0x01 tm).Drives false := by
  have hcs : (r.programmed 0x01 tm).cs = tm.selector := selector_cs tm.selector
  have hpa : pinAction 0x41 = paToggleOnMatch := by decide
  exact ⟨hcs ▸ hsel, (programmed_cmie r tm).1, hpa, hdir, rfl⟩

/-- The run that a Discrete GENERATE starts on a slot that owns its timer, its pin LOW (R110, R122). -/
theorem startRun_discreteRun {m : Byte} {f n : Word} {tm : Timing} (hinv : s.Inv) (howner : s.owner t = some c)
    (hv : generateVerdict s.cfg (s.ch c) m f n = .ok (t, .discrete, tm)) :
    DiscreteRun ((s.startRun c t .discrete tm n).respond 0 1 0) c t (2 * n.toNat) false := by
  obtain ⟨hid, -, -, -, htm⟩ := generateVerdict_ok hv
  have hch := startRun_discrete_ch s c t c tm n
  have htimer : (s.startRun c t .discrete tm n).timer t = (s.timer t).programmed 0x01 tm := by
    rw [(startRun_eq s c t tm n).1]
    exact (change_timer ..).trans (if_pos ⟨rfl, hinv.timer_lt hid⟩)
  rw [if_pos ⟨rfl, lt_of_identity hid⟩] at hch
  refine ⟨?_, ?_, ?_⟩
  · rw [owner_respond, (startRun_eq s c t tm n).1]
    exact howner
  · rw [ch_respond, hch]
    exact ⟨hid, rfl, rfl, togglesOf_toNat n⟩
  · rw [timer_respond, htimer]
    exact programmed_drives (selector_ne_zero hinv.cfgOk htm) (hinv.boundIsOutput c t hid)

/-- A step that serves such a GENERATE. -/
theorem step_discreteRun {m : Byte} {f n : Word} {tm : Timing} {rest : List Stimulus} (hinv : s.Inv)
    (hs : s.schedule = .command (encode (.generate c m f n)) :: rest) (howner : s.owner t = some c)
    (hv : generateVerdict s.cfg (s.ch c) m f n = .ok (t, .discrete, tm)) :
    ∃ s', step s = .next s' ∧ s'.schedule = rest ∧ DiscreteRun s' c t (2 * n.toNat) false := by
  obtain ⟨hid, -⟩ := generateVerdict_ok hv
  have slot : s.hasSlot c = true := hasSlot_eq_true.mpr (hinv.sized.1 ▸ lt_of_identity hid)
  refine ⟨_, ?_, ?_, startRun_discreteRun (hinv.takeStimulus hs) howner hv⟩
  · rw [step_command hs, runCommand_encode]
    exact exec_generate_ok slot hv
  · rw [respond_schedule, (startRun_eq ..).1]

end Sys2Proof.Machine

open Sys2Proof Sys2Proof.Machine

/-- Settles O38: the GENERATE starts a Discrete run of `2 * n` toggles, each event takes one and flips the pin, and the
last ends it. -/
theorem nPulsesAreExactlyTwoNEvents : Obligations.NPulsesAreExactlyTwoNEvents := by
  intro s c t f n tm rest hinv howner hidle hf hn htm hs j hj
  have hid : (s.ch c).timerIdentity = some t := hinv.registryConsistent t c howner
  have hnotRunning : (s.ch c).runState ≠ .running := by rw [hidle]; decide
  have hv : generateVerdict s.cfg (s.ch c) 0x01 f n = .ok (t, .discrete, tm) :=
    generateVerdict_eq_ok hid hnotRunning hf rfl (fun h => hn h.2) htm
  obtain ⟨u, hstep, hrest, hrun⟩ := step_discreteRun hinv hs howner hv
  have hevents : u.schedule =
      List.replicate j (.compareMatch t) ++ (List.replicate (2 * n.toNat - j) (.compareMatch t) ++ rest) := by
    rw [← List.append_assoc, ← List.replicate_add, Nat.add_sub_cancel' hj]
    exact hrest
  refine ⟨_, by rw [Nat.add_comm, stepN, hstep]; exact stepN_replicate hevents, ?_⟩
  rcases Nat.lt_or_eq_of_le hj with hlt | rfl
  · obtain ⟨-, ⟨-, hrunning, -, hremaining⟩, ⟨hclocked, -, hconnected, hdriven, hout⟩⟩ := hrun.compareMatches hlt
    refine ⟨hremaining, iff_of_true hrunning hlt, ?_, iff_of_false hclocked hlt.ne⟩
    rw [Bool.false_xor] at hout
    exact hout ▸ pinLevel_connected hdriven hconnected
  · have hpos : 2 * n.toNat ≠ 0 := fun h => hn (BitVec.eq_of_toNat_eq (by simpa using h))
    obtain ⟨hremaining, hstopped, hquiet, hdriven⟩ := hrun.compareMatches_all hpos
    have heven : decide (2 * n.toNat % 2 = 1) = false := decide_eq_false (by omega)
    refine ⟨?_, iff_of_false (fun hrunning => ?_) (lt_irrefl _), ?_, iff_of_true hquiet.2.1 rfl⟩
    · rw [Nat.sub_self]
      exact congrArg BitVec.toNat hremaining
    · exact absurd (hstopped.symm.trans hrunning) (by decide)
    · rw [heven]
      exact pinLevel_quiet hdriven hquiet

end

section
/-! Endless runs: a beginning continued by offering an event to each running timer in turn (R166), and what one instant
of a run does to a timer that the host leaves alone (R93, R195). -/

namespace Sys2Proof.Machine

variable {s s' : State} {t : Byte} {input : Inputs}

/-! ### A fair continuation -/

/-- An event of the timer whose turn it is at instant `k`, if its counter runs. -/
def turnEvent (s : State) (k : Nat) : Option Stimulus :=
  if (s.timer (BitVec.ofNat 8 k)).cs = 0 then none else some (.compareMatch (BitVec.ofNat 8 k))

theorem turnEvent_running {k : Nat} (h : turnEvent s k = some (.compareMatch t)) : (s.timer t).cs ≠ 0 := by
  unfold turnEvent at h
  split at h
  · cases h
  · rename_i hcs
    cases h
    exact hcs

/-- The stream that begins as `start` does up to instant `n` and then takes the running timers in turn. -/
def fairInput (s : State) (start : Inputs) (n k : Nat) : Option Stimulus :=
  if k < n then start k
  else turnEvent (trajectory s (fun j => if j < k then fairInput s start n j else none) k) k
termination_by k

variable {start : Inputs} {n k : Nat}

theorem fairInput_before (h : k < n) : fairInput s start n k = start k := by
  rw [fairInput, if_pos h]

theorem fairInput_after (h : n ≤ k) :
    fairInput s start n k = turnEvent (trajectory s (fairInput s start n) k) k := by
  rw [fairInput, if_neg (Nat.not_lt.mpr h)]
  exact congrArg (turnEvent · k) (trajectory_congr fun j hj => if_pos hj)

theorem fairInput_enabled
    (hstart : ∀ k t, k < n → start k = some (.compareMatch t) → ((trajectory s start k).timer t).cs ≠ 0) :
    EventsOnlyWhileRunning s (fairInput s start n) := by
  intro k t h
  rcases Nat.lt_or_ge k n with hk | hk
  · rw [fairInput_before hk] at h
    rw [trajectory_congr fun j hj => fairInput_before (hj.trans hk)]
    exact hstart k t hk h
  · rw [fairInput_after hk] at h
    exact turnEvent_running h

/-- The turn of every timer comes after every instant. -/
theorem fairInput_weaklyFair (s : State) (start : Inputs) (n : Nat) : WeaklyFair s (fairInput s start n) := by
  intro t k hrun
  have hturn : BitVec.ofNat 8 (256 * max k n + t.toNat) = t := by
    apply BitVec.eq_of_toNat_eq
    rw [BitVec.toNat_ofNat]
    omega
  have hk : k ≤ 256 * max k n + t.toNat := by omega
  have hn : n ≤ 256 * max k n + t.toNat := by omega
  refine ⟨_, hk, ?_⟩
  rw [fairInput_after hn, turnEvent, hturn, if_neg (hrun _ hk)]

/-! ### One instant of a run -/

/-- The invariants say of the stimuli still to come only that the resets meet the launch premise. -/
theorem State.Inv.withSchedule (h : s.Inv) {l : List Stimulus} (hl : ∀ p, Stimulus.rst p ∈ l → LaunchPremise p) :
    ({ s with schedule := l } : State).Inv :=
  { h with resetsMeetPremise := hl }

/-- The invariants hold all along a run without resets. -/
theorem State.Inv.along (h : s.Inv) (hrst : ∀ k platform, input k ≠ some (.rst platform)) (k : Nat) :
    (trajectory s input k).Inv := by
  induction k with
  | zero => exact h.withSchedule (by simp)
  | succ k ih =>
    obtain ⟨s', hs'⟩ := everyStepAnswersANextState { trajectory s input k with schedule := (input k).toList }
    have hpremise : ∀ p, Stimulus.rst p ∈ (input k).toList → LaunchPremise p := fun p hp =>
      absurd (Option.mem_toList.mp hp) (hrst k p)
    rw [trajectory_succ s input k hs']
    exact (ih.withSchedule hpremise).step hs'

/-- While the host leaves timer `t` alone, an instant is an event of `t`, or leaves `t`, its owner and the owner's
slot. -/
theorem HostLeaves.instant (h : HostLeaves s input t) (hinv : s.Inv) (k : Nat) :
    AgreesAt (trajectory s input k) (trajectory s input (k + 1)) t ∨
    (input k = some (.compareMatch t) ∧ trajectory s input (k + 1) = (trajectory s input k).compareMatch t) := by
  obtain ⟨hrst, hcommand⟩ := h
  cases hk : input k with
  | none =>
    rw [trajectory_none hk]
    exact Or.inl (agreesAt_refl _ t)
  | some x =>
    cases x with
    | command w =>
      obtain ⟨htimer, howner, hslot⟩ := hcommand k w hk
      exact Or.inl ⟨htimer, howner, hslot⟩
    | rst platform => exact absurd hk (hrst k platform)
    | compareMatch u =>
      rw [trajectory_event hk]
      by_cases hut : u = t
      · subst hut
        exact Or.inr ⟨rfl, rfl⟩
      · exact Or.inl (compareMatch_agreesAt (hinv.along hrst k).registryConsistent hut)

/-- Timer `t` runs, and no handler counts its events: its interrupt is off, or no owner of it is in Discrete mode
(R195 a and c). -/
structure RunsUncounted (s : State) (t : Byte) : Prop where
  clocked : (s.timer t).cs ≠ 0
  uncounted : (s.timer t).cmie = 0 ∨ ∀ c, s.owner t = some c → (s.ch c).mode ≠ .discrete

theorem RunsUncounted.of_agreesAt (h : RunsUncounted s t) (ha : AgreesAt s s' t) : RunsUncounted s' t := by
  obtain ⟨htimer, howner, hslot⟩ := ha
  refine ⟨htimer ▸ h.clocked, h.uncounted.imp (fun hoff => htimer ▸ hoff) (fun hmode c hc => ?_)⟩
  rw [howner] at hc
  rw [hslot c hc]
  exact hmode c hc

theorem RunsUncounted.not_counted (h : RunsUncounted s t) (c : Byte) : ¬ Counted s t c := by
  rintro ⟨-, henabled, howned, -, hdiscrete, -⟩
  rcases h.uncounted with hoff | hmode
  · exact absurd (hoff.symm.trans henabled) (by decide)
  · exact hmode c howned hdiscrete

/-- Its events only flip the pin. -/
theorem RunsUncounted.compareMatch (h : RunsUncounted s t) : RunsUncounted (s.compareMatch t) t := by
  have htimer : (s.flipOut t).timer t = (s.timer t).toggle := by
    rw [timer_flipOut, if_pos ⟨rfl, lt_of_cs_ne_zero h.clocked⟩]
  rw [compareMatch_of_uncounted h.clocked h.not_counted]
  refine ⟨?_, ?_⟩
  · rw [htimer, toggle_cs]
    exact h.clocked
  · rw [htimer, toggle_cmie]
    exact h.uncounted

theorem RunsUncounted.along (h : RunsUncounted s t) (hinv : s.Inv) (hleaves : HostLeaves s input t) (k : Nat) :
    RunsUncounted (trajectory s input k) t := by
  induction k with
  | zero => exact h.of_agreesAt ⟨rfl, rfl, fun _ _ => rfl⟩
  | succ k ih =>
    rcases hleaves.instant hinv k with hagrees | ⟨-, hevent⟩
    · exact ih.of_agreesAt hagrees
    · exact hevent ▸ ih.compareMatch

end Sys2Proof.Machine

open Sys2Proof Sys2Proof.Machine

/-- Settles O41: after the beginning each running timer is offered an event when its turn comes. -/
theorem everyBeginningExtendsToAFairRun : Obligations.EveryBeginningExtendsToAFairRun := by
  intro s start n hstart
  exact ⟨fairInput s start n, fun k => fairInput_before, fairInput_enabled hstart, fairInput_weaklyFair s start n⟩

/-- Settles O43: the timer keeps running through every instant, so fairness brings its events. -/
theorem fairRunningTimerHasEventsForEver : Obligations.FairRunningTimerHasEventsForEver := by
  intro s t input hinv hcs huncounted hadmissible hleaves
  have hruns : ∀ k, ((trajectory s input k).timer t).cs ≠ 0 := fun k =>
    (RunsUncounted.along ⟨hcs, huncounted⟩ hinv hleaves k).clocked
  exact fun n => ⟨hruns n, hadmissible.fair t n fun j _ => hruns j⟩

end

section
/-! The step as a whole (R194): what it takes and what it keeps, a reset during a run (R180, R181), a state in which
nothing runs any more (R195), and that serving a list step by step is the run under the stream that begins with it. -/

namespace Sys2Proof.Machine

variable {s s' u : State}

/-! ### The record only grows -/

theorem AddsWrites.trace_grows (h : AddsWrites s u) : s.trace <+: u.trace := by
  obtain ⟨writes, -, htrace⟩ := h
  exact ⟨writes, htrace.symm⟩

theorem AddsResponse.trace_grows (h : AddsResponse s u) : s.trace <+: u.trace := by
  obtain ⟨v, a, b, d, hwrites, rfl⟩ := h
  exact hwrites.trace_grows.trans ⟨_, rfl⟩

/-! ### A reset -/

theorem step_rst {platform : List TimerRegs} {rest : List Stimulus} (hs : s.schedule = .rst platform :: rest) :
    step s = .next (({ s with schedule := rest } : State).restart platform) := step_cons hs

theorem restart_sized (s : State) (platform : List TimerRegs) : (s.restart platform).Sized := by
  simp [State.Sized]

/-! ### No command, no reset, every timer halted -/

theorem step_nil (h : s.schedule = []) : step s = .next s := by
  rw [step, h]

/-- In a quiescent state an event that is offered is dropped (R166, U13). -/
theorem step_quiescent (hquiescent : s.Quiescent) (hevents : ∀ x ∈ s.schedule, ∃ t, x = .compareMatch t) :
    step s = .next { s with schedule := s.schedule.tail } := by
  cases hs : s.schedule with
  | nil =>
    rw [List.tail_nil, ← hs]
    exact step_nil hs
  | cons x rest =>
    obtain ⟨t, rfl⟩ := hevents x (hs ▸ List.mem_cons_self)
    exact haltedTimerHasNoEvent s t rest hs (hquiescent t)

theorem stepN_quiescent (k : Nat) (hquiescent : s.Quiescent) (hevents : ∀ x ∈ s.schedule, ∃ t, x = .compareMatch t) :
    stepN k s = .next { s with schedule := s.schedule.drop k } := by
  induction k generalizing s with
  | zero => rfl
  | succ k ih =>
    rw [stepN, step_quiescent hquiescent hevents, ← List.drop_tail]
    exact ih (s := { s with schedule := s.schedule.tail }) hquiescent fun x hx => hevents x (List.mem_of_mem_tail hx)

/-- What may still come after the last command when no reset does (R194). -/
theorem only_events {l : List Stimulus} (hcommand : ∀ w, Stimulus.command w ∉ l)
    (hrst : ∀ platform, Stimulus.rst platform ∉ l) : ∀ x ∈ l, ∃ t, x = .compareMatch t := by
  intro x hx
  cases x with
  | command w => exact absurd hx (hcommand w)
  | compareMatch t => exact ⟨t, rfl⟩
  | rst platform => exact absurd hx (hrst platform)

/-! ### No stimulus is served with a look at the ones after it -/

theorem startRun_withSchedule (s : State) (c t : Byte) (m : Mode) (tm : Timing) (n : Word) (l : List Stimulus) :
    ({ s with schedule := l } : State).startRun c t m tm n = { s.startRun c t m tm n with schedule := l } := by
  cases m <;> rfl

theorem exec_withSchedule {i : Instr} (hexec : exec i s = .next s') (l : List Stimulus) :
    exec i { s with schedule := l } = .next { s' with schedule := l } := by
  cases effect_of_exec hexec with
  | illegal i h => exact exec_illegalOperands (s := { s with schedule := l }) h
  | isrunning c slot => exact exec_isrunning (s := { s with schedule := l }) slot
  | isvalid c slot => exact exec_isvalid (s := { s with schedule := l }) slot
  | geterror c slot => exact exec_geterror (s := { s with schedule := l }) slot
  | solveFails wcode f w e width h => exact exec_solve_error (s := { s with schedule := l }) width h
  | solves wcode f w tm width h => exact exec_solve_ok (s := { s with schedule := l }) width h
  | bindFails c p slot fresh h => exact exec_construct_invalidPin (s := { s with schedule := l }) slot fresh h
  | binds c p t w slot fresh h => exact exec_construct_bound (s := { s with schedule := l }) slot fresh h
  | generateFails c m f n e slot h => exact exec_generate_error (s := { s with schedule := l }) slot h
  | starts c m f n t md tm slot h =>
    rw [exec_generate_ok (s := { s with schedule := l }) slot h, startRun_withSchedule]
    rfl
  | updateFails c f e slot h => exact exec_updatefreq_error (s := { s with schedule := l }) slot h
  | retimes c f t tm slot h => exact exec_updatefreq_ok (s := { s with schedule := l }) slot h
  | stops c slot =>
    rw [exec_stop (s := { s with schedule := l }) slot, doStop_withSchedule]
    rfl

theorem runCommand_withSchedule {w : CommandWord} (h : runCommand w s = .next s') (l : List Stimulus) :
    runCommand w { s with schedule := l } = .next { s' with schedule := l } := by
  unfold runCommand at h ⊢
  split at h
  · cases h
    rfl
  · exact exec_withSchedule h l

theorem serve_withSchedule {x : Stimulus} (h : serve x s = .next s') (l : List Stimulus) :
    serve x { s with schedule := l } = .next { s' with schedule := l } := by
  cases x with
  | command w => exact runCommand_withSchedule h l
  | compareMatch t =>
    cases h
    exact congrArg Host.Outcome.next (compareMatch_withSchedule s t l)
  | rst platform =>
    cases h
    rfl

/-! ### A list and the stream that begins with it -/

/-- An instant of a run is the step that serves what comes at it, whatever waits behind. -/
theorem step_trajectory {input : Inputs} {k : Nat} {x : Stimulus} (hx : input k = some x) (rest : List Stimulus) :
    step { trajectory s input k with schedule := x :: rest } =
      .next { trajectory s input (k + 1) with schedule := rest } := by
  obtain ⟨s', hs'⟩ := everyStepAnswersANextState { trajectory s input k with schedule := [x] }
  have hinstant : trajectory s input (k + 1) = s' := by
    refine trajectory_succ s input k ?_
    rw [hx]
    exact hs'
  rw [hinstant, step_cons rfl]
  rw [step_cons rfl] at hs'
  exact serve_withSchedule hs' rest

theorem stepN_trajectory {input : Inputs} {l : List Stimulus} {k : Nat} (hl : ∀ i, l[i]? = input (k + i)) :
    stepN l.length { trajectory s input k with schedule := l } = .next (trajectory s input (k + l.length)) := by
  induction l generalizing k with
  | nil => exact congrArg Host.Outcome.next (trajectory_withoutSchedule s input k)
  | cons x rest ih =>
    have hrest : ∀ i, rest[i]? = input (k + 1 + i) := fun i => by
      rw [Nat.add_right_comm, Nat.add_assoc]
      exact hl (i + 1)
    have hx : input k = some x := (hl 0).symm
    rw [List.length_cons, stepN, step_trajectory hx rest, ← Nat.add_assoc, Nat.add_right_comm]
    exact ih hrest

end Sys2Proof.Machine

open Sys2Proof Sys2Proof.Machine

/-- Settles O10, by what the stimulus is: each keeps the configuration and adds to the record at its end. -/
theorem stepKeepsConfigurationAndHistory : Obligations.StepKeepsConfigurationAndHistory := by
  intro s s' h
  rcases step_cases h with ⟨hs, rfl⟩ | ⟨w, rest, hs, -, rfl⟩ | ⟨w, rest, i, hs, -, he⟩ | ⟨t, rest, hs, rfl⟩ |
    ⟨p, rest, hs, rfl⟩ <;> rw [hs, List.tail]
  · exact ⟨rfl, rfl, (addsWrites_refl _).trace_grows⟩
  · exact ⟨rfl, rfl, ((addsWrites_refl _).respond ..).trace_grows⟩
  · obtain ⟨hcfg, hschedule⟩ := effect_frame he
    exact ⟨hcfg, hschedule, (effect_addsResponse he).trace_grows⟩
  · obtain ⟨hcfg, hschedule, -⟩ := compareMatch_frame { s with schedule := rest } t
    exact ⟨hcfg, hschedule, (addsWrites_compareMatch { s with schedule := rest } t).trace_grows⟩
  · exact ⟨rfl, rfl, (addsWrites_of_trace_eq rfl).trace_grows⟩

/-- Settles O12: PTO's own state is that of a launch, and nothing is added to the record. -/
theorem resetDuringARunRestoresPtoState : Obligations.ResetDuringARunRestoresPtoState := by
  intro s platform rest hs
  exact ⟨_, step_rst hs, restart_sized .., rfl, rfl, rfl, launch_ch s.cfg platform, launch_owner s.cfg platform,
    fun t ht => (launch_timer s.cfg platform t).trans (if_pos ht)⟩

/-- Settles O33: only events can still come, and every halted timer drops its own. -/
theorem runThatIsOverStaysOver : Obligations.RunThatIsOverStaysOver := by
  rintro s k ⟨hcommand, hquiescent⟩ hrst
  exact ⟨_, stepN_quiescent k hquiescent (only_events hcommand hrst),
    ⟨fun w hw => hcommand w (List.mem_of_mem_drop hw), hquiescent⟩, rfl⟩

/-- Settles O40: each step serves the head of the list, which is what comes at that instant of the stream. -/
theorem scheduleAndStreamMakeTheSameRun : Obligations.ScheduleAndStreamMakeTheSameRun := by
  intro s l
  have hl : ∀ i, l[i]? = l[0 + i]? := fun i => by rw [Nat.zero_add]
  have h := stepN_trajectory (s := s) (input := fun k => l[k]?) hl
  rw [Nat.zero_add] at h
  exact h

end

section
/-! How a run ends or does not end (R195): event by event in a schedule, and at the instants of an endless run by the
fairness of R166. -/

namespace Sys2Proof.Machine

variable {s s' : State} {c t : Byte} {k : Nat} {level : Bool} {input : Inputs}

/-! ### A counted event as one change of the slot and its timer -/

/-- One count of the handler (R159). -/
def Channel.counted (r : Channel) : Channel := { r with pulseRemaining := r.pulseRemaining - 1 }

theorem Counted.compareMatch_count_eq_change (h : Counted s t c) (hne : (s.ch c).pulseRemaining ≠ 1) :
    s.compareMatch t = s.change c t Channel.counted TimerRegs.toggle s.trace := h.compareMatch_count hne

theorem Counted.compareMatch_last_eq_change (h : Counted s t c) (hone : (s.ch c).pulseRemaining = 1)
    (hid : (s.ch c).timerIdentity = some t) :
    s.compareMatch t = s.change c t Channel.ended (TimerRegs.halted ∘ TimerRegs.toggle) (s.trace ++ haltWrites t) := by
  rw [h.compareMatch_last_valid hone hid]
  simp only [State.change, State.flipOut, List.modify_modify_eq]

theorem change_change (s : State) (c t : Byte) (f f' : Channel → Channel) (g g' : TimerRegs → TimerRegs)
    (tr tr' : List Output) :
    (s.change c t f g tr).change c t f' g' tr' = s.change c t (f' ∘ f) (g' ∘ g) tr' := by
  simp only [State.change, List.modify_modify_eq]

/-- One change leaves every other slot and every other timer. -/
theorem change_elsewhere (s : State) (c t : Byte) (f : Channel → Channel) (g : TimerRegs → TimerRegs)
    (tr : List Output) :
    (∀ d, d ≠ c → (s.change c t f g tr).ch d = s.ch d) ∧ (∀ u, u ≠ t → (s.change c t f g tr).timer u = s.timer u) := by
  refine ⟨fun d hd => ?_, fun u hu => ?_⟩
  · rw [change_ch, if_neg (fun h => hd h.1.symm)]
  · rw [change_timer, if_neg (fun h => hu h.1.symm)]

/-! ### A Discrete run in a schedule -/

theorem ne_one_of_remaining {x : ToggleCount} (h : x.toNat = k + 2) : x ≠ 1 := by
  rintro rfl
  simp at h

/-- The events before the last change the slot and its timer only and write no register. -/
theorem DiscreteRun.compareMatches_eq_change (h : DiscreteRun s c t k level) {j : Nat} (hj : j < k) :
    ∃ f g, s.compareMatches (List.replicate j t) = s.change c t f g s.trace := by
  induction j with
  | zero => exact ⟨id, id, by simp [State.compareMatches, State.change]⟩
  | succ j ih =>
    obtain ⟨f, g, heq⟩ := ih (by omega)
    obtain ⟨m, hm⟩ : ∃ m, k - j = m + 2 := ⟨k - j - 2, by omega⟩
    have hrun := h.compareMatches (j := j) (by omega)
    rw [hm] at hrun
    refine ⟨Channel.counted ∘ f, TimerRegs.toggle ∘ g, ?_⟩
    rw [compareMatches_replicate_succ,
      hrun.counted.compareMatch_count_eq_change (ne_one_of_remaining hrun.slot.remaining), heq]
    exact change_change ..

/-- All the events that are left end the run, with the writes of `do_stop` once. -/
theorem DiscreteRun.compareMatches_all_eq_change (h : DiscreteRun s c t (k + 1) level) :
    ∃ f g, s.compareMatches (List.replicate (k + 1) t) =
      s.change c t (Channel.ended ∘ f) (TimerRegs.halted ∘ g) (s.trace ++ haltWrites t) := by
  obtain ⟨f, g, heq⟩ := h.compareMatches_eq_change (Nat.lt_succ_self k)
  have hrun := h.compareMatches (Nat.lt_succ_self k)
  rw [Nat.add_sub_cancel_left] at hrun
  refine ⟨f, TimerRegs.toggle ∘ g, ?_⟩
  rw [compareMatches_replicate_succ,
    hrun.counted.compareMatch_last_eq_change (toNat_eq_one_iff.mp hrun.slot.remaining) hrun.slot.bound, heq]
  exact change_change ..

/-! ### Uncounted events in a schedule -/

theorem toggle_iterate {r : TimerRegs} (h : r.pa = paToggleOnMatch) (k : Nat) :
    TimerRegs.toggle^[k] r = { r with out := if k % 2 = 0 then r.out else !r.out } := by
  induction k with
  | zero => rfl
  | succ k ih =>
    have hconnected : ({ r with out := if k % 2 = 0 then r.out else !r.out } : TimerRegs).pa = paToggleOnMatch := h
    have hparity : (k + 1) % 2 = 0 ↔ ¬ k % 2 = 0 := by omega
    rw [Function.iterate_succ_apply', ih, toggle_of_connected hconnected]
    by_cases heven : k % 2 = 0 <;> simp [hparity, heven]

/-- Any number of events that no handler counts only flips the pin. -/
theorem RunsUncounted.compareMatches (h : RunsUncounted s t) (k : Nat) :
    s.compareMatches (List.replicate k t) =
      { s with timers := s.timers.modify t.toNat (TimerRegs.toggle^[k]) } := by
  induction k generalizing s with
  | zero => simp [State.compareMatches]
  | succ k ih =>
    have hevent : s.compareMatch t = s.flipOut t := compareMatch_of_uncounted h.clocked h.not_counted
    have hnext := ih (hevent ▸ h.compareMatch)
    rw [List.replicate_succ, Function.iterate_succ, ← List.modify_modify_eq]
    show (s.compareMatch t).compareMatches (List.replicate k t) = _
    rw [hevent]
    exact hnext

/-! ### A Discrete run at the instants of an endless run -/

/-- The events of `t` are counted on `c`, which is bound to `t` and has `k` toggles left. Unlike `DiscreteRun` it asks
nothing of the pin: on a timer that two channels share the invariants do not say that it is connected (I4 of R39). -/
structure CountedRun (s : State) (c t : Byte) (k : Nat) : Prop extends Counted s t c where
  bound : (s.ch c).timerIdentity = some t
  remaining : (s.ch c).pulseRemaining.toNat = k

/-- `c` is Idle and Stopped, and `t` is halted and masked (R126). -/
structure HaltedRun (s : State) (c t : Byte) : Prop where
  idle : (s.ch c).runState = .idle
  stopped : (s.ch c).mode = .stopped
  halted : (s.timer t).cs = 0
  masked : (s.timer t).cmie = 0

theorem CountedRun.of_agreesAt (h : CountedRun s c t k) (ha : AgreesAt s s' t) : CountedRun s' c t k := by
  have hslot := ha.slot c h.owned
  exact ⟨h.toCounted.of_agreesAt ha, hslot ▸ h.bound, hslot ▸ h.remaining⟩

/-- A change of the slot and the timer, read back. -/
theorem CountedRun.change (h : CountedRun s c t k) (f : Channel → Channel) (g : TimerRegs → TimerRegs)
    (tr : List Output) :
    (s.change c t f g tr).ch c = f (s.ch c) ∧ (s.change c t f g tr).timer t = g (s.timer t) := by
  rw [change_ch, change_timer, if_pos ⟨rfl, lt_of_identity h.bound⟩, if_pos ⟨rfl, lt_of_cs_ne_zero h.clocked⟩]
  exact ⟨rfl, rfl⟩

/-- An event that is not the last one takes one toggle (R159). -/
theorem CountedRun.compareMatch (h : CountedRun s c t (k + 2)) : CountedRun (s.compareMatch t) c t (k + 1) := by
  obtain ⟨hch, htimer⟩ := h.change Channel.counted TimerRegs.toggle s.trace
  have hremaining : ((s.ch c).counted).pulseRemaining.toNat = k + 1 := by
    have := h.remaining
    show ((s.ch c).pulseRemaining - 1).toNat = k + 1
    bv_omega
  rw [h.compareMatch_count_eq_change (ne_one_of_remaining h.remaining)]
  refine ⟨⟨?_, ?_, h.owned, ?_⟩, hch ▸ h.bound, hch ▸ hremaining⟩
  · rw [htimer, toggle_cs]
    exact h.clocked
  · rw [htimer, toggle_cmie]
    exact h.enabled
  · obtain ⟨hrunning, hdiscrete, -⟩ := h.counts
    rw [Counts, hch]
    exact ⟨hrunning, hdiscrete, by bv_omega⟩

/-- The last event stops the channel (R126, R159). -/
theorem CountedRun.compareMatch_last (h : CountedRun s c t 1) : HaltedRun (s.compareMatch t) c t := by
  obtain ⟨hch, htimer⟩ := h.change Channel.ended (TimerRegs.halted ∘ TimerRegs.toggle) (s.trace ++ haltWrites t)
  obtain ⟨-, hcs, hcmie, -, -⟩ := halted_quiet (s.timer t).toggle
  rw [h.compareMatch_last_eq_change (toNat_eq_one_iff.mp h.remaining) h.bound]
  exact ⟨by rw [hch]; rfl, by rw [hch]; rfl, by rw [htimer]; exact hcs, by rw [htimer]; exact hcmie⟩

theorem eventsBefore_event (h : input k = some (.compareMatch t)) :
    eventsBefore input t (k + 1) = eventsBefore input t k + 1 := by
  rw [eventsBefore, if_pos h]

theorem eventsBefore_other (h : input k ≠ some (.compareMatch t)) :
    eventsBefore input t (k + 1) = eventsBefore input t k := by
  rw [eventsBefore, if_neg h, Nat.add_zero]

theorem eventsBefore_monotone (input : Inputs) (t : Byte) : Monotone (eventsBefore input t) :=
  monotone_nat_of_le_succ fun _ => Nat.le_add_right _ _

/-- Events that keep coming reach every number. -/
theorem eventsBefore_unbounded (h : ∀ n, ∃ j, n ≤ j ∧ input j = some (.compareMatch t)) (k : Nat) :
    ∃ n, k ≤ eventsBefore input t n := by
  induction k with
  | zero => exact ⟨0, Nat.zero_le _⟩
  | succ k ih =>
    obtain ⟨n, hn⟩ := ih
    obtain ⟨j, hnj, hj⟩ := h n
    refine ⟨j + 1, ?_⟩
    rw [eventsBefore_event hj]
    exact Nat.succ_le_succ (hn.trans (eventsBefore_monotone input t hnj))

/-- While fewer events than toggles have come, each has taken one. -/
theorem CountedRun.along (h : CountedRun s c t k) (hinv : s.Inv) (hleaves : HostLeaves s input t) {n : Nat}
    (hn : eventsBefore input t n < k) : CountedRun (trajectory s input n) c t (k - eventsBefore input t n) := by
  induction n with
  | zero => exact h.of_agreesAt ⟨rfl, rfl, fun _ _ => rfl⟩
  | succ n ih =>
    by_cases hevent : input n = some (.compareMatch t)
    · rw [eventsBefore_event hevent] at hn ⊢
      obtain ⟨m, rfl⟩ : ∃ m, k = m + 2 + eventsBefore input t n := ⟨k - 2 - eventsBefore input t n, by omega⟩
      have hrun := ih (by omega)
      have hcount : m + 2 + eventsBefore input t n - (eventsBefore input t n + 1) = m + 1 := by omega
      rw [Nat.add_sub_cancel] at hrun
      rw [trajectory_event hevent, hcount]
      exact hrun.compareMatch
    · rw [eventsBefore_other hevent] at hn ⊢
      rcases hleaves.instant hinv n with hagrees | ⟨hcontra, -⟩
      · exact (ih hn).of_agreesAt hagrees
      · exact absurd hcontra hevent

/-- Fairness brings as many events as there are toggles: were there fewer, the timer would run for ever (R166). -/
theorem CountedRun.exists_all_events (h : CountedRun s c t k) (hinv : s.Inv) (hleaves : HostLeaves s input t)
    (hfair : WeaklyFair s input) : ∃ n, k ≤ eventsBefore input t n := by
  by_contra hnone
  have hfew : ∀ n, eventsBefore input t n < k := fun n => Nat.lt_of_not_le fun hn => hnone ⟨n, hn⟩
  exact hnone (eventsBefore_unbounded (fun n => hfair t n fun j _ => (h.along hinv hleaves (hfew j)).clocked) k)

/-- At the instant after the last event the run is over; at every instant before it was going on. -/
theorem CountedRun.ends (h : CountedRun s c t k) (hk : k ≠ 0) (hinv : s.Inv) (hleaves : HostLeaves s input t)
    (hfair : WeaklyFair s input) :
    ∃ n, eventsBefore input t n = k ∧ HaltedRun (trajectory s input n) c t ∧
      ∀ j, j < n → ∃ m, CountedRun (trajectory s input j) c t m := by
  have hall := h.exists_all_events hinv hleaves hfair
  have hbefore : ∀ j, j < Nat.find hall → eventsBefore input t j < k := fun j hj =>
    Nat.lt_of_not_le (Nat.find_min hall hj)
  have hreached := Nat.find_spec hall
  cases hn : Nat.find hall with
  | zero =>
    rw [hn, eventsBefore] at hreached
    omega
  | succ n =>
    rw [hn] at hbefore hreached
    have hlast := hbefore n (Nat.lt_succ_self n)
    have hevent : input n = some (.compareMatch t) := by
      by_contra hother
      rw [eventsBefore_other hother] at hreached
      omega
    rw [eventsBefore_event hevent] at hreached
    have hrun := h.along hinv hleaves hlast
    have hone : k - eventsBefore input t n = 1 := by omega
    rw [hone] at hrun
    refine ⟨n + 1, ?_, ?_, fun j hj => ⟨_, h.along hinv hleaves (hbefore j hj)⟩⟩
    · rw [eventsBefore_event hevent]
      omega
    · rw [trajectory_event hevent]
      exact hrun.compareMatch_last

end Sys2Proof.Machine

open Sys2Proof Sys2Proof.Machine

/-- Settles O37: each event before the last takes one toggle and flips the pin, and the last one stops the channel. -/
theorem discreteRunEndsAfterExactlyTheCountLeft : Obligations.DiscreteRunEndsAfterExactlyTheCountLeft := by
  intro s c t k rest _ howner hid hrunning hdiscrete hremaining hpos hcs hcmie hpa hdir hs j hj
  have hrun : DiscreteRun s c t k (s.timer t).out :=
    ⟨howner, ⟨hid, hrunning, hdiscrete, hremaining⟩, ⟨hcs, hcmie, hpa, hdir, rfl⟩⟩
  have hevents : s.schedule =
      List.replicate j (.compareMatch t) ++ (List.replicate (k - j) (.compareMatch t) ++ rest) := by
    rw [← List.append_assoc, ← List.replicate_add, Nat.add_sub_cancel' hj]
    exact hs
  refine ⟨_, stepN_replicate hevents, rfl, ?_⟩
  rcases Nat.lt_or_eq_of_le hj with hlt | rfl
  · obtain ⟨-, ⟨-, hrunning', hdiscrete', hremaining'⟩, ⟨hclocked, -, hconnected, hdriven, hout⟩⟩ :=
      hrun.compareMatches hlt
    obtain ⟨f, g, heq⟩ := hrun.compareMatches_eq_change hlt
    obtain ⟨hslots, htimers⟩ := change_elsewhere s c t f g s.trace
    have hlevel : ((s.timer t).out ^^ decide (j % 2 = 1)) =
        if j % 2 = 0 then (s.timer t).out else !(s.timer t).out := by
      rcases Nat.mod_two_eq_zero_or_one j with h | h <;> simp [h]
    have htrace : (s.compareMatches (List.replicate j t)).trace = s.trace := by
      rw [heq]
      rfl
    refine ⟨hremaining', heq ▸ hslots, heq ▸ htimers,
      fun _ => ⟨hrunning', hdiscrete', htrace, hclocked, ?_⟩, fun h => absurd h hlt.ne⟩
    rw [← hlevel, ← hout]
    exact pinLevel_connected hdriven hconnected
  · obtain ⟨m, rfl⟩ := Nat.exists_eq_add_of_le' hpos
    obtain ⟨hremaining', hidle, hquiet, hdriven⟩ := hrun.compareMatches_all (Nat.succ_ne_zero m)
    have ⟨_, hhalted, hmasked, _, _⟩ := hquiet
    obtain ⟨f, g, heq⟩ := hrun.compareMatches_all_eq_change
    obtain ⟨hslots, htimers⟩ :=
      change_elsewhere s c t (Channel.ended ∘ f) (TimerRegs.halted ∘ g) (s.trace ++ haltWrites t)
    have hstopped : ((s.compareMatches (List.replicate (m + 1) t)).ch c).mode = .stopped := by
      rw [heq, (hrun.change ..).1]
      rfl
    have htrace : (s.compareMatches (List.replicate (m + 1) t)).trace = s.trace ++ haltWrites t := by
      rw [heq]
      rfl
    refine ⟨?_, heq ▸ hslots, heq ▸ htimers, fun h => absurd h (lt_irrefl _),
      fun _ => ⟨hidle, hstopped, hhalted, hmasked, pinLevel_quiet hdriven hquiet, htrace⟩⟩
    rw [Nat.sub_self]
    exact congrArg BitVec.toNat hremaining'

/-- Settles O39: an event that no handler counts is one flip of the pin, and `k` flips are one or none. -/
theorem uncountedRunNeverEndsByItself : Obligations.UncountedRunNeverEndsByItself := by
  intro s t k rest hlt hcs hpa huncounted hs
  have hrun : RunsUncounted s t := ⟨hcs, huncounted⟩
  have hevents := stepN_replicate hs
  rw [hrun.compareMatches k] at hevents
  refine ⟨_, hevents, rfl, rfl, rfl, rfl, rfl, fun u hu => ?_, ?_⟩
  · exact (change_elsewhere s 0 t id (TimerRegs.toggle^[k]) s.trace).2 u hu
  · rw [← toggle_iterate hpa]
    exact (change_timer s 0 t t id (TimerRegs.toggle^[k]) s.trace).trans (if_pos ⟨rfl, hlt⟩)

/-- Settles O42: fairness brings the events, and each takes one toggle until the last stops the channel. -/
theorem fairDiscreteRunEndsByItself : Obligations.FairDiscreteRunEndsByItself := by
  intro s c t k input hinv howner hrunning hdiscrete hremaining hcmie hcs hadmissible hleaves
  have hpos : 1 ≤ (s.ch c).pulseRemaining.toNat := (hinv.discreteCount c hdiscrete).1
  have hrun : CountedRun s c t k :=
    ⟨⟨hcs, hcmie, howner, hrunning, hdiscrete, hpos⟩, hinv.registryConsistent t c howner, hremaining⟩
  obtain ⟨n, hcount, ⟨hidle, hstopped, hhalted, hmasked⟩, hbefore⟩ :=
    hrun.ends (by omega) hinv hleaves hadmissible.fair
  refine ⟨n, hcount, hidle, hstopped, hhalted, hmasked, fun j hj => ?_⟩
  obtain ⟨m, hgoing⟩ := hbefore j hj
  exact hgoing.counts.1

end
